-- ==== Sys2Proof/Word.lean ====
section
/-! DEFINITION. The word types, and the small closed types that instructions and errors are made of. -/

namespace Sys2Proof

/-- 8 bits (00_scope R13). -/
abbrev Byte := BitVec 8
/-- 16 bits: the offset and length registers, the transport addresses. -/
abbrev Half := BitVec 16
/-- 32 bits (00_scope R13). -/
abbrev Word := BitVec 32

/-- KSRC of KEYSETUP (30_encoding R113): which key, `KEY` or 32 bytes of BUF. -/
inductive KeySel where
  | psk
  | buf
  deriving DecidableEq, Repr

/-- NSRC, TGT and BSRC of IVSETUP, NONCE_INC and NONCE_CMP (30_encoding R113): `NONCE` or 8 bytes of BUF. -/
inductive NonceSel where
  | nonce
  | buf
  deriving DecidableEq, Repr

/-- FAIL of SES_CONFIRM (30_encoding R113). -/
inductive Confirmation where
  | ok
  | fail
  deriving DecidableEq, Repr

/-- The command errors of 60_exceptions R281. -/
inductive CmdErr where
  | opcode
  | field
  | state
  | sequence
  | length
  | bounds
  deriving DecidableEq, Repr

end Sys2Proof
end

