-- ==== Sys2Proof/Machine/Bytes.lean ====
section
/-! DEFINITION. The byte-sequence primitives of 00_scope R14 and R15. -/

namespace Sys2Proof.Machine

/-- `rotl(v, r)`, 0 < r < 32 (00_scope R14). -/
def rotl (v : Word) (r : Nat) : Word := (v <<< r) ||| (v >>> (32 - r))

/-- `le32(s, o)`, the little-endian load (00_scope R15). -/
def le32 (s : List Byte) (o : Nat) : Word :=
  (s.getD o 0).setWidth 32 ||| ((s.getD (o + 1) 0).setWidth 32 <<< 8) |||
    ((s.getD (o + 2) 0).setWidth 32 <<< 16) ||| ((s.getD (o + 3) 0).setWidth 32 <<< 24)

/-- `wbytes(w)`, the little-endian store (00_scope R15). -/
def wbytes (w : Word) : List Byte :=
  [w.extractLsb' 0 8, w.extractLsb' 8 8, w.extractLsb' 16 8, w.extractLsb' 24 8]

/-- `xor8(s)` (00_scope R15). -/
def xor8 : List Byte → Byte
  | [] => 0
  | b :: s => b ^^^ xor8 s

/-- The first `n` bytes of a sequence as a register of `n` bytes. -/
def toBytes (n : Nat) (s : List Byte) : Vector Byte n := Vector.ofFn fun i => s.getD i.val 0

end Sys2Proof.Machine
end

