-- ==== Sys2Proof/Config.lean ====
section
/-! DEFINITION. The configuration parameters of 00_scope R9, their constraints, the example configuration of R11, and the free values. -/

namespace Sys2Proof

/-- `P_CTR_MODE` (40_cipher R149). -/
inductive CtrMode where
  | frozen
  | advance
  deriving DecidableEq, Repr

/-- `P_EMPTY_FLUSH` (44_session R239). -/
inductive EmptyFlush where
  | ignore
  | send
  deriving DecidableEq, Repr

/-- `P_RX_POLICY` (44_session R245). -/
inductive RxPolicy where
  | drop
  | process
  deriving DecidableEq, Repr

/-- The parameters of 00_scope R9, one field each. -/
structure Config where
  maxPayload    : Nat
  incap         : Nat
  nvmSize       : Nat
  nvmKeyAddr    : Nat
  nvmMarkerAddr : Nat
  markerValue   : Byte
  defaultPsk    : Vector Byte 32
  senderAddr    : Half
  listenerAddr  : Half
  srcEp         : Byte
  dstEp         : Byte
  txOptions     : Half
  ctrMode       : CtrMode
  emptyFlush    : EmptyFlush
  rxPolicy      : RxPolicy
  deriving DecidableEq, Repr

/-- The constraints of 00_scope R9: the configurations that are machines. -/
abbrev Config.wf (c : Config) : Prop :=
  9 ≤ c.maxPayload ∧ c.maxPayload ≤ 16384 ∧
  1 ≤ c.incap ∧ c.incap + 8 ≤ c.maxPayload ∧
  34 ≤ c.nvmSize ∧ c.nvmSize ≤ 65536 ∧
  c.nvmKeyAddr + 33 ≤ c.nvmSize ∧
  c.nvmMarkerAddr < c.nvmSize ∧
  ¬ (c.nvmKeyAddr ≤ c.nvmMarkerAddr ∧ c.nvmMarkerAddr < c.nvmKeyAddr + 33) ∧
  c.senderAddr ≠ c.listenerAddr

/-- `BUF_SIZE` (00_scope R10). -/
def Config.bufSize (c : Config) : Nat := 4 * c.maxPayload
/-- `IN_BASE` (00_scope R10). -/
def Config.inBase (_ : Config) : Nat := 0
/-- `TX_BASE` (00_scope R10). -/
def Config.txBase (c : Config) : Nat := c.maxPayload
/-- `RX_BASE` (00_scope R10). -/
def Config.rxBase (c : Config) : Nat := 2 * c.maxPayload
/-- `PT_BASE` (00_scope R10). -/
def Config.ptBase (c : Config) : Nat := 3 * c.maxPayload

/-- The key 0x01, 0x02, ..., 0x20, the `P_DEFAULT_PSK` of `EX` (00_scope R11). -/
def Config.exKey : Vector Byte 32 := Vector.ofFn fun i => BitVec.ofNat 8 (i.val + 1)

/-- The example configuration `EX` (00_scope R11): one admissible value of each parameter, not a fact about the hardware
(DESIGN CHOICE to reset with it, log 1). -/
def Config.ex : Config where
  maxPayload    := 96
  incap         := 88
  nvmSize       := 256
  nvmKeyAddr    := 0x00
  nvmMarkerAddr := 0x40
  markerValue   := 0xA5
  defaultPsk    := Config.exKey
  senderAddr    := 0x0001
  listenerAddr  := 0x0002
  srcEp         := 0x01
  dstEp         := 0x01
  txOptions     := 0x0000
  ctrMode       := .frozen
  emptyFlush    := .ignore
  rxPolicy      := .drop

/-- A free value (93_implementation_defined U1, U2; log 4): what the bus carries for the byte at a host address when the
spec leaves it open. The first argument is the counter `freeCtr` of State. It has no body, so no proof can know it. -/
opaque Config.freeByte : Nat → Nat → Byte

end Sys2Proof
end

