-- ==== Sys2Proof/Machine/State.lean ====
section
/-! DEFINITION. The state of the engine and of its environment as plain data, the reasons a step can stop, and reset. -/

namespace Sys2Proof.Machine

/-- `PSK_STATUS` (10_state R33), also the KeyStore outcomes of R58. The encoding 3 is never held (U8). -/
inductive PskStatus where
  | invalid
  | valid
  | error
  deriving DecidableEq, Repr

/-- `CS_STAGE` (10_state R36). -/
inductive CsStage where
  | empty
  | keyed
  | ready
  deriving DecidableEq, Repr

/-- `SESSION` (10_state R37). -/
inductive Session where
  | initial
  | modeSelection
  | operating
  deriving DecidableEq, Repr

/-- `MODE` (10_state R38). -/
inductive Mode where
  | none
  | sender
  | listener
  deriving DecidableEq, Repr

/-- The notices (30_encoding R129). -/
inductive Notice where
  | promptMode
  | invalidInput
  | keyInvalid
  | keyCorrupt
  | frameTooShort
  | sendSuppressed
  | inputOverflowFlushed
  | pskNotValid
  | statusListening
  | modeSender
  deriving DecidableEq, Repr

/-- The events of the event stream (30_encoding R126 to R128). -/
inductive Event where
  | notice (n : Notice)
  | setAddr (addr : Half)
  | send (dest : Half) (srcEp dstEp : Byte) (opt len : Half)
  | display (text : List Byte)
  deriving DecidableEq, Repr

/-- The width of a host access (20_memory R91). -/
inductive Width where
  | byte
  | half
  | word
  deriving DecidableEq, Repr

/-- One host access to the 17-bit host address space (10_state R52). A write of fewer than 32 bits takes the low bits of its
value (log 18). -/
inductive Access where
  | read (width : Width) (addr : BitVec 17)
  | write (width : Width) (addr : BitVec 17) (value : Word)
  deriving DecidableEq, Repr

/-- What happens next in the one total order of host and engine actions (20_memory R97; log 5): a host access, a turn of the
engine, or the reset input (70_reset R310). -/
inductive Turn where
  | host (a : Access)
  | engine
  | reset
  deriving DecidableEq, Repr

/-- The bus response to a host access (20_memory R91; log 10). -/
inductive Reply where
  | byte (v : Byte)
  | word (v : Word)
  | done
  | busError
  deriving DecidableEq, Repr

/-- Why the machine stops. -/
inductive Fault where
  /-- `UninitRead` (93_implementation_defined U2): a command reads a BUF byte that nothing has written since reset. Raised
  by the BUF reads of every command. Safe. -/
  | uninitRead
  /-- A session command's fixed region leaves BUF. Raised by the BUF writes of SES_BYTE and of the Sender flush, only where
  `INLEN` ≥ `P_INCAP`, which 10_state R40 rules out (log 13). Safe. -/
  | outsideBuf
  deriving DecidableEq, Repr

/-- Why a step has no meaning. -/
inductive Refusal where
  /-- An instruction with no meaning yet. Raised by no arm of this model. Safe. -/
  | notModelled (mnemonic : String)
  /-- The configuration breaks a constraint of 00_scope R9, so it is no machine. Raised by `step` alone (log 14). Safe. -/
  | inadmissibleConfig
  deriving DecidableEq, Repr

/-- Everything the spec gives the machine (10_state R32 to R51, 20_memory R80, 60_exceptions R280), its configuration
(00_scope R9; log 1), and three fields of the model's own: `turns`, `reply`, `freeCtr`. -/
structure State where
  /-- the parameters of 00_scope R9, fixed for the run (log 1) -/
  cfg         : Config
  /-- `KEY` (R32) -/
  key         : Vector Byte 32
  /-- `PSK_STATUS` (R33) -/
  pskStatus   : PskStatus
  /-- `NONCE` (R34), byte 0 least significant -/
  nonce       : Vector Byte 8
  /-- `CS` (R35) -/
  cs          : Vector Word 16
  /-- `CS_STAGE` (R36) -/
  csStage     : CsStage
  /-- `SESSION` (R37) -/
  session     : Session
  /-- `MODE` (R38) -/
  mode        : Mode
  /-- `LOCAL_ADDR` (R39) -/
  localAddr   : Half
  /-- `INLEN` (R40) -/
  inlen       : Half
  /-- `TXLEN` (R41) -/
  txlen       : Half
  /-- `PTLEN` (R42) -/
  ptlen       : Half
  /-- `SEND_PENDING` (R43) -/
  sendPending : Bool
  /-- `CONF_FAIL` (R44) -/
  confFail    : Bool
  /-- `RESULT` (R45) -/
  result      : Word
  /-- `SRC` (R46) -/
  src         : Half
  /-- `DST` (R47) -/
  dst         : Half
  /-- `BUSY` (R48) -/
  busy        : Bool
  /-- `CMD_LATCH` (R48) -/
  cmdLatch    : Word
  /-- `ERR` (R49) -/
  err         : Bool
  /-- `OVR` (R49) -/
  ovr         : Bool
  /-- `ERRINFO` (R50): `ERROP` in bits 15:8, `ERRCODE` in bits 7:0 -/
  errinfo     : Half
  /-- BUF (20_memory R81): the bytes written since reset -/
  buf         : List Host.Cell
  /-- NVM (20_memory R87): the bytes that differ from the erased value -/
  nvm         : List Host.Cell
  /-- the NVM write log (20_memory R88), oldest first -/
  nvmLog      : List Host.Cell
  /-- the event stream (30_encoding R125), oldest first -/
  events      : List Event
  /-- the reset sequence has not ended (60_exceptions R280, 70_reset R311; log 6) -/
  bootPending : Bool
  /-- MODEL: what the environment does next, oldest first (log 5) -/
  turns       : List Turn
  /-- MODEL: the response to the last host access (log 10) -/
  reply       : Option Reply
  /-- MODEL: the counter the free values are drawn with (log 4) -/
  freeCtr     : Nat
  deriving DecidableEq, Repr

/-- The state right after the first power-on, for any configuration and any launch image of NVM (70_reset R310, R312; U3):
every register at its reset value, nothing written in BUF, the reset sequence still to run. -/
def State.powerOn (cfg : Config) (nvm : List Host.Cell) : State where
  cfg         := cfg
  key         := Vector.replicate 32 0
  pskStatus   := .invalid
  nonce       := Vector.replicate 8 0
  cs          := Vector.replicate 16 0
  csStage     := .empty
  session     := .initial
  mode        := .none
  localAddr   := 0
  inlen       := 0
  txlen       := 0
  ptlen       := 0
  sendPending := false
  confFail    := false
  result      := 0
  src         := 0
  dst         := 0
  busy        := true
  cmdLatch    := 0
  err         := false
  ovr         := false
  errinfo     := 0
  buf         := []
  nvm         := nvm
  nvmLog      := []
  events      := []
  bootPending := true
  turns       := []
  reply       := none
  freeCtr     := 0

/-- The machine right after reset: `EX` for the configuration (DESIGN CHOICE, log 1) and an erased NVM for the launch image
(DESIGN CHOICE, log 2). -/
def State.reset : State := State.powerOn Config.ex []

end Sys2Proof.Machine
end

