-- ==== Sys2Proof/Machine/Flags.lean ====
section
/-! DEFINITION. The codes and packed words of 10_state and 30_encoding: status fields, `STATUS`, `ERRINFO`, `RESULT`, `CFG0`,
`CFG1`, the event words. -/

namespace Sys2Proof.Machine

/-- 10_state R33, R58 -/
def PskStatus.code : PskStatus → BitVec 2
  | .invalid => 0
  | .valid => 1
  | .error => 2

/-- 10_state R36 -/
def CsStage.code : CsStage → BitVec 2
  | .empty => 0
  | .keyed => 1
  | .ready => 2

/-- 10_state R37 -/
def Session.code : Session → BitVec 2
  | .initial => 0
  | .modeSelection => 1
  | .operating => 2

/-- 10_state R38 -/
def Mode.code : Mode → BitVec 2
  | .none => 0
  | .sender => 1
  | .listener => 2

/-- `ERRCODE` (60_exceptions R281) -/
def errCode : CmdErr → Byte
  | .opcode => 0x01
  | .field => 0x02
  | .state => 0x03
  | .sequence => 0x04
  | .length => 0x05
  | .bounds => 0x06

/-- The value `ERRINFO` takes (60_exceptions R283): `ERROP` in bits 15:8, `ERRCODE` in bits 7:0. -/
def errinfoOf (op : Byte) (e : CmdErr) : Half := op ++ errCode e

/-- `STATUS` (10_state R53), its fields from bit 31 down to bit 0. -/
def State.statusWord (s : State) : Word :=
  (0 : BitVec 18) ++ BitVec.ofBool s.confFail ++ BitVec.ofBool s.sendPending ++ s.mode.code ++ s.session.code ++
    s.csStage.code ++ s.pskStatus.code ++ (0 : BitVec 1) ++ BitVec.ofBool s.ovr ++ BitVec.ofBool s.err ++
    BitVec.ofBool s.busy

/-- `CFG0` (10_state R52) -/
def cfg0 (c : Config) : Word := BitVec.ofNat 16 c.incap ++ BitVec.ofNat 16 c.maxPayload

/-- `CFG1` (10_state R54) -/
def cfg1 (c : Config) : Word :=
  (0 : BitVec 29) ++ BitVec.ofBool (c.rxPolicy = .process) ++ BitVec.ofBool (c.emptyFlush = .send) ++
    BitVec.ofBool (c.ctrMode = .advance)

/-- `RESULT` of KS_LOAD, KS_VERIFY and the reset sequence (10_state R58, R59) -/
def keystoreResult (r : PskStatus) : Word := r.code.setWidth 32

/-- `RESULT` of NONCE_CMP (10_state R58, R59) -/
def compareResult : Ordering → Word
  | .eq => 0
  | .gt => 1
  | .lt => 2

/-- `RESULT` of RESYNC and SES_RX (10_state R59) -/
def boolResult (b : Bool) : Word := if b then 1 else 0

/-- `RESULT` of ENCODE (10_state R59) -/
def encodeResult (len : Nat) : Word := BitVec.ofNat 32 (8 + len)

/-- `RESULT` of DECODE (10_state R59) -/
def decodeResult (len : Nat) : Word := if len ≤ 8 then 0x00000001 else BitVec.ofNat 32 (len - 8) <<< 16

/-- The notice codes (30_encoding R129) -/
def Notice.code : Notice → Byte
  | .promptMode => 0x01
  | .invalidInput => 0x02
  | .keyInvalid => 0x03
  | .keyCorrupt => 0x04
  | .frameTooShort => 0x05
  | .sendSuppressed => 0x06
  | .inputOverflowFlushed => 0x07
  | .pskNotValid => 0x08
  | .statusListening => 0x09
  | .modeSender => 0x0A

/-- The text of a `DISPLAY` event, four bytes a word, the first byte lowest, zero bytes at the end (30_encoding R128). -/
def packText : List Byte → List Word
  | [] => []
  | [a] => [le32 [a] 0]
  | [a, b] => [le32 [a, b] 0]
  | [a, b, c] => [le32 [a, b, c] 0]
  | a :: b :: c :: d :: rest => le32 [a, b, c, d] 0 :: packText rest

/-- The head word of an event, `KIND << 24 | payload` with a payload of 16 bits (30_encoding R125, R126). -/
def headWord (kind : Byte) (payload : Half) : Word := kind ++ (0 : Byte) ++ payload

/-- The words of an event (30_encoding R126 to R128). -/
def Event.words : Event → List Word
  | .notice n => [headWord 0x01 (n.code.setWidth 16)]
  | .setAddr addr => [headWord 0x02 addr]
  | .send dest srcEp dstEp opt len => [headWord 0x03 len, dstEp ++ srcEp ++ dest, opt.setWidth 32]
  | .display text => headWord 0x04 (BitVec.ofNat 16 text.length) :: packText text

/-- The event stream as the 32-bit words the host accepts (30_encoding R125). -/
def State.eventWords (s : State) : List Word := s.events.flatMap Event.words

end Sys2Proof.Machine
end

