-- ==== Sys2Proof/Machine/Memory.lean ====
section
/-! DEFINITION. Byte memories in one canonical form: cells at strictly rising addresses, none equal to what an unlisted
address reads as. -/

namespace Sys2Proof.Machine

/-- What an unlisted BUF byte reads as: nothing, it has not been written since reset (20_memory R84; log 3). -/
def Memory.bufBlank : Option Byte := none

/-- What an unlisted NVM byte reads as: the erased value 0xFF (DESIGN CHOICE, log 2). -/
def Memory.nvmBlank : Option Byte := some 0xFF

/-- The canonical form of a memory of `size` bytes whose unlisted addresses read as `blank`. -/
abbrev Memory.wf (size : Nat) (blank : Option Byte) (m : List Host.Cell) : Prop :=
  m.Pairwise (fun x y => x.1 < y.1) ∧ ∀ c ∈ m, c.1 < size ∧ some c.2 ≠ blank

/-- The cell at an address. -/
def Memory.lookup : List Host.Cell → Nat → Option Byte
  | [], _ => none
  | (k, v) :: m, a => if a = k then some v else Memory.lookup m a

/-- List a byte at its place. -/
def Memory.insert : List Host.Cell → Nat → Byte → List Host.Cell
  | [], a, v => [(a, v)]
  | (k, w) :: m, a, v =>
    if a < k then (a, v) :: (k, w) :: m
    else if a = k then (a, v) :: m
    else (k, w) :: Memory.insert m a v

/-- Take an address off the list. -/
def Memory.erase : List Host.Cell → Nat → List Host.Cell
  | [], _ => []
  | (k, w) :: m, a => if a = k then Memory.erase m a else (k, w) :: Memory.erase m a

/-- Read one byte. -/
def Memory.read (blank : Option Byte) (m : List Host.Cell) (a : Nat) : Option Byte :=
  match Memory.lookup m a with
  | some v => some v
  | none => blank

/-- Write one byte, keeping the canonical form. -/
def Memory.write (blank : Option Byte) (m : List Host.Cell) (a : Nat) (v : Byte) : List Host.Cell :=
  if some v = blank then Memory.erase m a else Memory.insert m a v

/-- The `n` bytes from an address up, where all of them read. -/
def Memory.readBytes (blank : Option Byte) (m : List Host.Cell) : Nat → Nat → Option (List Byte)
  | _, 0 => some []
  | a, n + 1 =>
    match Memory.read blank m a, Memory.readBytes blank m (a + 1) n with
    | some v, some vs => some (v :: vs)
    | _, _ => none

/-- Write bytes from an address up, in ascending order (20_memory R85). -/
def Memory.writeBytes (blank : Option Byte) (m : List Host.Cell) : Nat → List Byte → List Host.Cell
  | _, [] => m
  | a, v :: vs => Memory.writeBytes blank (Memory.write blank m a v) (a + 1) vs

end Sys2Proof.Machine
end

