-- ==== Sys2Proof/Machine/Ops.lean ====
section
/-! DEFINITION. The shared operations: sequencing, taking a command error and acknowledging it, BUF, NVM, events. -/

namespace Sys2Proof.Machine

/-- What a piece of a command answers: a value, or the reason the machine stops. -/
abbrev Answer (α : Type) := Host.Outcome α Fault Refusal

/-- What a command answers. -/
abbrev Result := Answer State

/-- One step of a command, then the rest (00_scope R17). -/
def andThen {α β : Type} (x : Answer α) (rest : α → Answer β) : Answer β :=
  match x with
  | .next a => rest a
  | .fault r => .fault r
  | .refused r => .refused r

/-- `record_error` (60_exceptions R283): taking a command error. It saves the failing opcode and the code in `ERRINFO`, sets
the sticky `ERR`, and changes nothing else. -/
def State.takeError (op : Byte) (e : CmdErr) (s : State) : State :=
  { s with err := true, errinfo := errinfoOf op e }

/-- A write of `v` to `STATUS` (10_state R53, 60_exceptions R289): the host's acknowledgement of an error. Bit 1 clears `ERR`,
bit 2 clears `OVR`, nothing else changes. -/
def State.clearFlags (v : Word) (s : State) : State :=
  { s with err := s.err && !v.getLsbD 1, ovr := s.ovr && !v.getLsbD 2 }

/-- The first check that fails (60_exceptions R282). -/
def firstError : List (Bool × CmdErr) → Option CmdErr
  | [] => none
  | (failed, e) :: checks => if failed then some e else firstError checks

/-- A command: its checks in the order of 60_exceptions R282, all before its first effect, then its effect. -/
def guarded (op : Byte) (checks : List (Bool × CmdErr)) (s : State) (run : Result) : Result :=
  match firstError checks with
  | some e => .next (s.takeError op e)
  | none => run

/-- The BUF byte at an offset, if it has been written since reset (20_memory R81, R84). -/
def State.bufByte (s : State) (a : Nat) : Option Byte := Memory.read Memory.bufBlank s.buf a

/-- `MemRead(a, n)` (00_scope R16), if all of it has been written since reset. -/
def State.bufBytes (s : State) (a n : Nat) : Option (List Byte) := Memory.readBytes Memory.bufBlank s.buf a n

/-- A command's read of BUF: a byte not written since reset is the fault `UninitRead` (20_memory R84, U2). -/
def withBuf {α : Type} (s : State) (a n : Nat) (use : List Byte → Answer α) : Answer α :=
  match s.bufBytes a n with
  | some bytes => use bytes
  | none => .fault .uninitRead

/-- BUF with bytes stored from an offset up. -/
def State.putBuf (a : Nat) (bytes : List Byte) (s : State) : State :=
  { s with buf := Memory.writeBytes Memory.bufBlank s.buf a bytes }

/-- `MemWrite(a, n, bytes)` (00_scope R16). BUF has `BUF_SIZE` bytes and no other (20_memory R81; log 13). -/
def writeBuf (a : Nat) (bytes : List Byte) (s : State) : Result :=
  if a + bytes.length ≤ s.cfg.bufSize then .next (s.putBuf a bytes) else .fault .outsideBuf

/-- `NvmRead(a)` (00_scope R16, 20_memory R89). -/
def State.nvmByte (s : State) (a : Nat) : Byte := (Memory.read Memory.nvmBlank s.nvm a).getD 0

/-- `NvmWrite(a, v)` (00_scope R16, 20_memory R88): writes the byte and appends the write to the log. -/
def State.nvmWrite (a : Nat) (v : Byte) (s : State) : State :=
  { s with nvm := Memory.write Memory.nvmBlank s.nvm a v, nvmLog := s.nvmLog ++ [(a, v)] }

/-- NVM writes from an address up, one byte after the other. -/
def State.nvmWrites : Nat → List Byte → State → State
  | _, [], s => s
  | a, v :: vs, s => State.nvmWrites (a + 1) vs (s.nvmWrite a v)

/-- `emit E` (00_scope R16): the event stream gains one event. -/
def State.emit (e : Event) (s : State) : State := { s with events := s.events ++ [e] }

/-- `emit NOTICE(n)`. -/
def State.notify (n : Notice) (s : State) : State := s.emit (.notice n)

/-- `RESULT <- v`. -/
def State.setResult (v : Word) (s : State) : State := { s with result := v }

/-- The end of an engine step: `BUSY <- 0` (60_exceptions R280). The free values move on (log 4). -/
def State.complete (s : State) : State := { s with busy := false, freeCtr := s.freeCtr + 1 }

end Sys2Proof.Machine
end

