-- ==== Sys2Proof/Machine/Bus.lean ====
section
/-! DEFINITION. The host's accesses to the register map and the BUF window (10_state R52 to R56, 20_memory R91, R93). -/

namespace Sys2Proof.Machine

/-- The named registers of the host register map (10_state R52). -/
inductive Reg where
  | cmd
  | status
  | src
  | dst
  | result
  | errinfo
  | inlen
  | txlen
  | ptlen
  | localAddr
  | nonceLo
  | nonceHi
  | cfg0
  | cfg1
  deriving DecidableEq, Repr

/-- The offset of a register (10_state R52). -/
def Reg.offset : Reg → Nat
  | .cmd => 0x000
  | .status => 0x004
  | .src => 0x008
  | .dst => 0x00C
  | .result => 0x010
  | .errinfo => 0x014
  | .inlen => 0x018
  | .txlen => 0x01C
  | .ptlen => 0x020
  | .localAddr => 0x024
  | .nonceLo => 0x028
  | .nonceHi => 0x02C
  | .cfg0 => 0x030
  | .cfg1 => 0x034

/-- The register at an offset; none at a reserved one (10_state R52, R55). -/
def regAt : Nat → Option Reg
  | 0x000 => some .cmd
  | 0x004 => some .status
  | 0x008 => some .src
  | 0x00C => some .dst
  | 0x010 => some .result
  | 0x014 => some .errinfo
  | 0x018 => some .inlen
  | 0x01C => some .txlen
  | 0x020 => some .ptlen
  | 0x024 => some .localAddr
  | 0x028 => some .nonceLo
  | 0x02C => some .nonceHi
  | 0x030 => some .cfg0
  | 0x034 => some .cfg1
  | _ => none

/-- The host address of the BUF window (10_state R52). -/
def windowBase : Nat := 0x10000

/-- What a host access reaches: a register, a reserved register address, `bytes` bytes of the BUF window from an offset, or
nothing, when its width or alignment is not one the interface takes. -/
inductive Target where
  | reg (r : Reg)
  | reserved
  | window (offset bytes : Nat)
  | badAccess
  deriving DecidableEq, Repr

/-- Access widths and alignment (20_memory R91). -/
def busTarget (width : Width) (addr : BitVec 17) : Target :=
  let a := addr.toNat
  if a < windowBase then
    if width = .word ∧ a % 4 = 0 then
      match regAt a with
      | some r => .reg r
      | none => .reserved
    else .badAccess
  else
    match width with
    | .byte => .window (a - windowBase) 1
    | .half => .badAccess
    | .word => if a % 4 = 0 then .window (a - windowBase) 4 else .badAccess

/-- What a register reads as while idle (10_state R52 to R54). -/
def State.regValue (s : State) : Reg → Word
  | .cmd => 0
  | .status => s.statusWord
  | .src => s.src.setWidth 32
  | .dst => s.dst.setWidth 32
  | .result => s.result
  | .errinfo => s.errinfo.setWidth 32
  | .inlen => s.inlen.setWidth 32
  | .txlen => s.txlen.setWidth 32
  | .ptlen => s.ptlen.setWidth 32
  | .localAddr => s.localAddr.setWidth 32
  | .nonceLo => le32 s.nonce.toList 0
  | .nonceHi => le32 s.nonce.toList 4
  | .cfg0 => cfg0 s.cfg
  | .cfg1 => cfg1 s.cfg

/-- The free value the bus carries for the byte at a host address (U1, U2; log 4). -/
def State.freeBusByte (s : State) (addr : Nat) : Byte := Config.freeByte s.freeCtr addr

/-- The free 32-bit value for the register at an offset (U1). -/
def State.freeBusWord (s : State) (addr : Nat) : Word :=
  le32 [s.freeBusByte addr, s.freeBusByte (addr + 1), s.freeBusByte (addr + 2), s.freeBusByte (addr + 3)] 0

/-- A register read: `STATUS` always reads its current value, any other register a free value while `BUSY` = 1 (10_state R56;
log 11). -/
def State.readReg (s : State) (r : Reg) : Word :=
  if s.busy ∧ r ≠ .status then s.freeBusWord r.offset else s.regValue r

/-- One byte of a BUF window read: 0x00 past `BUF_SIZE` (10_state R55), a free value while `BUSY` = 1 (R56) or where nothing
has been written since reset (U2), else the byte. -/
def State.readWindow (s : State) (offset : Nat) : Byte :=
  if offset < s.cfg.bufSize then
    if s.busy then s.freeBusByte (windowBase + offset)
    else (s.bufByte offset).getD (s.freeBusByte (windowBase + offset))
  else 0

/-- The response to a host read. No read has a side effect (20_memory R95). -/
def State.readReply (s : State) (width : Width) (addr : BitVec 17) : Reply :=
  match busTarget width addr with
  | .reg r => .word (s.readReg r)
  | .reserved => .word 0
  | .window offset bytes =>
    if bytes = 1 then .byte (s.readWindow offset)
    else
      .word (le32 [s.readWindow offset, s.readWindow (offset + 1), s.readWindow (offset + 2), s.readWindow (offset + 3)] 0)
  | .badAccess => .busError

/-- A host write that `BUSY` = 1 turns away (20_memory R93, 60_exceptions R284): it sets `OVR` and nothing else. -/
def State.dropWrite (s : State) : State := { s with ovr := true }

/-- A host write of `v` to `CMD` while idle: it issues the command (10_state R48). -/
def State.issue (v : Word) (s : State) : State := { s with cmdLatch := v, busy := true }

/-- A write to a register (10_state R46 to R48, R52, R53, 20_memory R93). Every other register ignores writes. -/
def State.writeReg (r : Reg) (v : Word) (s : State) : State :=
  match r with
  | .cmd => if s.busy then s.dropWrite else s.issue v
  | .status => s.clearFlags v
  | .src => if s.busy then s.dropWrite else { s with src := v.setWidth 16 }
  | .dst => if s.busy then s.dropWrite else { s with dst := v.setWidth 16 }
  | _ => s

/-- The bytes of a write of 1 or 4 bytes to the BUF window, low byte first (20_memory R90). -/
def windowBytes (bytes : Nat) (v : Word) : List Byte := (wbytes v).take bytes

/-- A write to the BUF window: the bytes below `BUF_SIZE`, all at once; ignored above (20_memory R91, R93, R94; log 12). -/
def State.writeWindow (offset bytes : Nat) (v : Word) (s : State) : State :=
  if offset < s.cfg.bufSize then
    if s.busy then s.dropWrite
    else s.putBuf offset ((windowBytes bytes v).take (s.cfg.bufSize - offset))
  else s

/-- The effect of a host write (10_state R52, R55, 20_memory R91). -/
def State.writeEffect (s : State) (width : Width) (addr : BitVec 17) (v : Word) : State :=
  match busTarget width addr with
  | .reg r => s.writeReg r v
  | .reserved => s
  | .window offset bytes => s.writeWindow offset bytes v
  | .badAccess => s

/-- The response to a host write. -/
def writeReply (width : Width) (addr : BitVec 17) : Reply :=
  match busTarget width addr with
  | .badAccess => .busError
  | _ => .done

/-- One host access (20_memory R94): its effect, its response in `reply`, and the free values' counter, which moves on at a
write and at a read while `BUSY` = 1 (log 4). -/
def State.access (a : Access) (s : State) : State :=
  match a with
  | .read width addr =>
    { s with
      reply := some (s.readReply width addr)
      freeCtr := if s.busy then s.freeCtr + 1 else s.freeCtr }
  | .write width addr v =>
    { s.writeEffect width addr v with
      reply := some (writeReply width addr)
      freeCtr := s.freeCtr + 1 }

end Sys2Proof.Machine
end

