-- ==== Sys2Proof/Syntax.lean ====
section
/-! DEFINITION. The instructions: the 18 commands of 30_encoding R113, one constructor per row of the opcode table. -/

namespace Sys2Proof

/-- A command with its operands. `len` is the field `L`, an unsigned length in bytes (30_encoding R112); WellFormed bounds
it to 16 bits (log 16). -/
inductive Instr where
  /-- NOP (40_cipher R140) -/
  | nop
  /-- KEYSETUP (40_cipher R144) -/
  | keysetup (sel : KeySel)
  /-- IVSETUP (40_cipher R145) -/
  | ivsetup (sel : NonceSel)
  /-- GENBLOCK (40_cipher R148) -/
  | genblock
  /-- XCRYPT (40_cipher R150) -/
  | xcrypt (len : Nat)
  /-- KS_LOAD (41_keystore R171) -/
  | ksLoad
  /-- KS_VERIFY (41_keystore R173) -/
  | ksVerify
  /-- KS_STORE (41_keystore R175) -/
  | ksStore
  /-- KS_INITDEF (41_keystore R177) -/
  | ksInitdef
  /-- NONCE_INC (42_nonce R191) -/
  | nonceInc (sel : NonceSel)
  /-- NONCE_CMP (42_nonce R193) -/
  | nonceCmp (sel : NonceSel)
  /-- RESYNC (42_nonce R195) -/
  | resync
  /-- ENCODE (43_codec R211) -/
  | encode (len : Nat)
  /-- DECODE (43_codec R213) -/
  | decode (len : Nat)
  /-- SES_BYTE (44_session R232) -/
  | sesByte (b : Byte)
  /-- SES_RX (44_session R245) -/
  | sesRx (len : Nat)
  /-- SES_CONFIRM (44_session R248) -/
  | sesConfirm (c : Confirmation)
  /-- SES_TICK (44_session R250) -/
  | sesTick
  deriving DecidableEq, Repr

end Sys2Proof
end

