-- ==== Sys2Proof/WellFormed.lean ====
section
/-! DEFINITION. Which instructions a command word can carry. -/

namespace Sys2Proof

/-- The length field is 16 bits (30_encoding R111, R112). -/
def Instr.lenFits (len : Nat) : Bool := len < 2 ^ 16

/-- The checks: the length operand of XCRYPT, ENCODE, DECODE and SES_RX fits `L`; every other operand fits by its type. -/
def Instr.wellFormed : Instr → Bool
  | .nop => true
  | .keysetup _ => true
  | .ivsetup _ => true
  | .genblock => true
  | .xcrypt len => Instr.lenFits len
  | .ksLoad => true
  | .ksVerify => true
  | .ksStore => true
  | .ksInitdef => true
  | .nonceInc _ => true
  | .nonceCmp _ => true
  | .resync => true
  | .encode len => Instr.lenFits len
  | .decode len => Instr.lenFits len
  | .sesByte _ => true
  | .sesRx len => Instr.lenFits len
  | .sesConfirm _ => true
  | .sesTick => true

end Sys2Proof
end

