-- ==== Sys2Proof/Decode.lean ====
section
/-! DEFINITION. Decoding a command word, total on all words (30_encoding R115), and the encoder from the same table (R113). -/

namespace Sys2Proof

/-- `OP` = `word[31:24]` (30_encoding R111). -/
def opField (w : Word) : Byte := w.extractLsb' 24 8
/-- `A` = `word[23:16]` (30_encoding R111). -/
def argField (w : Word) : Byte := w.extractLsb' 16 8
/-- `L` = `word[15:0]` (30_encoding R111). -/
def lenField (w : Word) : Half := w.extractLsb' 0 16

/-- A word of the fields `OP`, `A`, `L`. -/
def commandWord (op arg : Byte) (len : Half) : Word := op ++ arg ++ len

/-- The selector bits: `A[7:1]` must be zero, `A[0]` selects (30_encoding R113). -/
def selector (arg : Byte) : Option Bool :=
  if arg = 0 then some false else if arg = 1 then some true else none

def KeySel.ofBit (b : Bool) : KeySel := if b then .buf else .psk
def NonceSel.ofBit (b : Bool) : NonceSel := if b then .buf else .nonce
def Confirmation.ofBit (b : Bool) : Confirmation := if b then .fail else .ok

/-- A command with no operand: `A` and `L` must be zero. -/
def decodePlain (arg : Byte) (len : Half) (i : Instr) : Except CmdErr Instr :=
  if arg = 0 ∧ len = 0 then .ok i else .error .field

/-- A command with a selector in `A[0]`: `A[7:1]` and `L` must be zero. -/
def decodeSelect (arg : Byte) (len : Half) (f : Bool → Instr) : Except CmdErr Instr :=
  match selector arg with
  | some b => if len = 0 then .ok (f b) else .error .field
  | none => .error .field

/-- A command with a length in `L`: `A` must be zero. -/
def decodeLen (arg : Byte) (len : Half) (f : Nat → Instr) : Except CmdErr Instr :=
  if arg = 0 then .ok (f len.toNat) else .error .field

/-- A command with a byte in `A`: `L` must be zero. -/
def decodeByte (arg : Byte) (len : Half) (f : Byte → Instr) : Except CmdErr Instr :=
  if len = 0 then .ok (f arg) else .error .field

/-- `decode` of 30_encoding R115 over the rows of R113. An unassigned opcode is `E_OPCODE`; a reserved bit that is set is
`E_FIELD`. -/
def decode (w : Word) : Except CmdErr Instr :=
  let arg := argField w
  let len := lenField w
  match (opField w).toNat with
  | 0x00 => decodePlain arg len .nop
  | 0x01 => decodeSelect arg len fun b => .keysetup (KeySel.ofBit b)
  | 0x02 => decodeSelect arg len fun b => .ivsetup (NonceSel.ofBit b)
  | 0x03 => decodePlain arg len .genblock
  | 0x04 => decodeLen arg len .xcrypt
  | 0x10 => decodePlain arg len .ksLoad
  | 0x11 => decodePlain arg len .ksVerify
  | 0x12 => decodePlain arg len .ksStore
  | 0x13 => decodePlain arg len .ksInitdef
  | 0x20 => decodeSelect arg len fun b => .nonceInc (NonceSel.ofBit b)
  | 0x21 => decodeSelect arg len fun b => .nonceCmp (NonceSel.ofBit b)
  | 0x22 => decodePlain arg len .resync
  | 0x30 => decodeLen arg len .encode
  | 0x31 => decodeLen arg len .decode
  | 0x40 => decodeByte arg len .sesByte
  | 0x41 => decodeLen arg len .sesRx
  | 0x42 => decodeSelect arg len fun b => .sesConfirm (Confirmation.ofBit b)
  | 0x43 => decodePlain arg len .sesTick
  | _ => .error .opcode

/-- The host's question about a row of the opcode table: the instruction the decoder reads from a word. The block has one
format, a 32-bit word written to `CMD` (30_encoding R110); the bits above `nbits` are zero. -/
def decodeTableWord (nbits w : Nat) : Option Instr :=
  match decode (BitVec.ofNat 32 (w % 2 ^ nbits)) with
  | .ok i => some i
  | .error _ => none

/-- The opcode of each command (30_encoding R113). -/
def Instr.opcode : Instr → Byte
  | .nop => 0x00
  | .keysetup _ => 0x01
  | .ivsetup _ => 0x02
  | .genblock => 0x03
  | .xcrypt _ => 0x04
  | .ksLoad => 0x10
  | .ksVerify => 0x11
  | .ksStore => 0x12
  | .ksInitdef => 0x13
  | .nonceInc _ => 0x20
  | .nonceCmp _ => 0x21
  | .resync => 0x22
  | .encode _ => 0x30
  | .decode _ => 0x31
  | .sesByte _ => 0x40
  | .sesRx _ => 0x41
  | .sesConfirm _ => 0x42
  | .sesTick => 0x43

def KeySel.arg : KeySel → Byte
  | .psk => 0
  | .buf => 1

def NonceSel.arg : NonceSel → Byte
  | .nonce => 0
  | .buf => 1

def Confirmation.arg : Confirmation → Byte
  | .ok => 0
  | .fail => 1

/-- The field `A` of each command (30_encoding R113). -/
def Instr.arg : Instr → Byte
  | .nop => 0
  | .keysetup sel => sel.arg
  | .ivsetup sel => sel.arg
  | .genblock => 0
  | .xcrypt _ => 0
  | .ksLoad => 0
  | .ksVerify => 0
  | .ksStore => 0
  | .ksInitdef => 0
  | .nonceInc sel => sel.arg
  | .nonceCmp sel => sel.arg
  | .resync => 0
  | .encode _ => 0
  | .decode _ => 0
  | .sesByte b => b
  | .sesRx _ => 0
  | .sesConfirm c => c.arg
  | .sesTick => 0

/-- The field `L` of each command (30_encoding R113). -/
def Instr.len : Instr → Nat
  | .nop => 0
  | .keysetup _ => 0
  | .ivsetup _ => 0
  | .genblock => 0
  | .xcrypt len => len
  | .ksLoad => 0
  | .ksVerify => 0
  | .ksStore => 0
  | .ksInitdef => 0
  | .nonceInc _ => 0
  | .nonceCmp _ => 0
  | .resync => 0
  | .encode len => len
  | .decode len => len
  | .sesByte _ => 0
  | .sesRx len => len
  | .sesConfirm _ => 0
  | .sesTick => 0

/-- The command word of an instruction (30_encoding R113, R131). -/
def encode (i : Instr) : Word := commandWord i.opcode i.arg (BitVec.ofNat 16 i.len)

/-- The command syntax of 30_encoding R131, numbers in decimal (00_scope R13). -/
def Instr.asmText : Instr → String
  | .nop => "NOP"
  | .keysetup .psk => "KEYSETUP psk"
  | .keysetup .buf => "KEYSETUP buf"
  | .ivsetup .nonce => "IVSETUP nonce"
  | .ivsetup .buf => "IVSETUP buf"
  | .genblock => "GENBLOCK"
  | .xcrypt len => "XCRYPT " ++ len.repr
  | .ksLoad => "KS_LOAD"
  | .ksVerify => "KS_VERIFY"
  | .ksStore => "KS_STORE"
  | .ksInitdef => "KS_INITDEF"
  | .nonceInc .nonce => "NONCE_INC nonce"
  | .nonceInc .buf => "NONCE_INC buf"
  | .nonceCmp .nonce => "NONCE_CMP nonce"
  | .nonceCmp .buf => "NONCE_CMP buf"
  | .resync => "RESYNC"
  | .encode len => "ENCODE " ++ len.repr
  | .decode len => "DECODE " ++ len.repr
  | .sesByte b => "SES_BYTE " ++ b.toNat.repr
  | .sesRx len => "SES_RX " ++ len.repr
  | .sesConfirm .ok => "SES_CONFIRM ok"
  | .sesConfirm .fail => "SES_CONFIRM fail"
  | .sesTick => "SES_TICK"

end Sys2Proof
end

