-- ==== Sys2Proof/Machine/Operands.lean ====
section
/-! DEFINITION. The operand forms: the BUF ranges a command checks (20_memory R86, 30_encoding R116) and the selected operands
of 30_encoding R113. -/

namespace Sys2Proof.Machine

/-- The range `[a, a + n)` is not admitted: it runs past `BUF_SIZE`, in unbounded integers (20_memory R86). -/
def State.pastBuf (s : State) (a : Half) (n : Nat) : Bool := s.cfg.bufSize < a.toNat + n

/-- The key operand of KEYSETUP: `KEY`, or the 32 bytes of BUF at `SRC` (40_cipher R144). -/
def withKey (sel : KeySel) (s : State) (use : List Byte → Result) : Result :=
  match sel with
  | .psk => use s.key.toList
  | .buf => withBuf s s.src.toNat 32 use

/-- The range KEYSETUP checks (30_encoding R116). -/
def keyOutside (sel : KeySel) (s : State) : Bool :=
  match sel with
  | .psk => false
  | .buf => s.pastBuf s.src 32

/-- A nonce operand: `NONCE`, or the 8 bytes of BUF at an offset register (40_cipher R145, 42_nonce R193). -/
def withNonce (sel : NonceSel) (offset : Half) (s : State) (use : List Byte → Result) : Result :=
  match sel with
  | .nonce => use s.nonce.toList
  | .buf => withBuf s offset.toNat 8 use

/-- The range a nonce operand checks (30_encoding R116). -/
def nonceOutside (sel : NonceSel) (offset : Half) (s : State) : Bool :=
  match sel with
  | .nonce => false
  | .buf => s.pastBuf offset 8

end Sys2Proof.Machine
end

