-- ==== Sys2Proof/Machine/Salsa.lean ====
section
/-! DEFINITION. The Salsa20 core of 40_cipher: the constant, the rounds, the block function, the counter, `xcrypt`. -/

namespace Sys2Proof.Machine

/-- `SIGMA0` (40_cipher R141) -/
def sigma0 : Word := 0x61707865
/-- `SIGMA1` (40_cipher R141) -/
def sigma1 : Word := 0x3320646E
/-- `SIGMA2` (40_cipher R141) -/
def sigma2 : Word := 0x79622D32
/-- `SIGMA3` (40_cipher R141) -/
def sigma3 : Word := 0x6B206574

/-- The quadruples (i, j, k, r) of the column round (40_cipher R143). -/
def columnRound : List (Fin 16 × Fin 16 × Fin 16 × Nat) :=
  [(4, 0, 12, 7), (8, 4, 0, 9), (12, 8, 4, 13), (0, 12, 8, 18),
   (9, 5, 1, 7), (13, 9, 5, 9), (1, 13, 9, 13), (5, 1, 13, 18),
   (14, 10, 6, 7), (2, 14, 10, 9), (6, 2, 14, 13), (10, 6, 2, 18),
   (3, 15, 11, 7), (7, 3, 15, 9), (11, 7, 3, 13), (15, 11, 7, 18)]

/-- The quadruples of the row round (40_cipher R143). -/
def rowRound : List (Fin 16 × Fin 16 × Fin 16 × Nat) :=
  [(1, 0, 3, 7), (2, 1, 0, 9), (3, 2, 1, 13), (0, 3, 2, 18),
   (6, 5, 4, 7), (7, 6, 5, 9), (4, 7, 6, 13), (5, 4, 7, 18),
   (11, 10, 9, 7), (8, 11, 10, 9), (9, 8, 11, 13), (10, 9, 8, 18),
   (12, 15, 14, 7), (13, 12, 15, 9), (14, 13, 12, 13), (15, 14, 13, 18)]

/-- `QS(x, i, j, k, r)` (40_cipher R143). -/
def quarterStep (x : Vector Word 16) (q : Fin 16 × Fin 16 × Fin 16 × Nat) : Vector Word 16 :=
  x.set q.1 (x[q.1] ^^^ rotl (x[q.2.1] + x[q.2.2.1]) q.2.2.2)

/-- A column round, then a row round (40_cipher R143). -/
def doubleRound (x : Vector Word 16) : Vector Word 16 :=
  rowRound.foldl quarterStep (columnRound.foldl quarterStep x)

/-- `n` double-rounds. -/
def doubleRounds : Nat → Vector Word 16 → Vector Word 16
  | 0, x => x
  | n + 1, x => doubleRounds n (doubleRound x)

/-- `salsa20_block(s)` (40_cipher R146; 10 double-rounds, 90_conflicts C1). -/
def salsa20Block (s : Vector Word 16) : List Byte :=
  let x := doubleRounds 10 s
  (List.finRange 16).flatMap fun i => wbytes (x[i] + s[i])

/-- The state `keySetup` leaves: the constant, the key, zero counter words; words 6 and 7 as they were (40_cipher R144). -/
def keyWords (key : List Byte) (x : Vector Word 16) : Vector Word 16 :=
  #v[sigma0, le32 key 0, le32 key 4, le32 key 8,
     le32 key 12, sigma1, x[6], x[7],
     0, 0, sigma2, le32 key 16,
     le32 key 20, le32 key 24, le32 key 28, sigma3]

/-- The state `ivSetup` leaves: the nonce words, zero counter words (40_cipher R145). -/
def ivWords (nonce : List Byte) (x : Vector Word 16) : Vector Word 16 :=
  (((x.set 6 (le32 nonce 0)).set 7 (le32 nonce 4)).set 8 0).set 9 0

/-- `ctr_advance(c)` (40_cipher R149). -/
def ctrAdvance (mode : CtrMode) (x : Vector Word 16) : Vector Word 16 :=
  match mode with
  | .frozen => x
  | .advance =>
    let y := x.set 8 (x[8] + 1)
    if y[8] = 0 then y.set 9 (y[9] + 1) else y

/-- The keystream over at most `blocks` blocks of the input, one `salsa20_block` and one `ctr_advance` a block. -/
def xcryptBlocks (mode : CtrMode) : Nat → Vector Word 16 → List Byte → List Byte × Vector Word 16
  | 0, x, _ => ([], x)
  | blocks + 1, x, input =>
    let rest := xcryptBlocks mode blocks (ctrAdvance mode x) (input.drop 64)
    (List.zipWith (· ^^^ ·) (input.take 64) (salsa20Block x) ++ rest.1, rest.2)

/-- `xcrypt(c, in)` (40_cipher R150): the output and the state after ceil(len/64) blocks. -/
def xcrypt (mode : CtrMode) (x : Vector Word 16) (input : List Byte) : List Byte × Vector Word 16 :=
  xcryptBlocks mode ((input.length + 63) / 64) x input

end Sys2Proof.Machine
end

