-- ==== Sys2Proof/Machine/Cipher.lean ====
section
/-! DEFINITION. The cipher engine commands (40_cipher): NOP, KEYSETUP, IVSETUP, GENBLOCK, XCRYPT. -/

namespace Sys2Proof.Machine

/-- The effect of 40_cipher R144 for a key: `CS` and `CS_STAGE`. -/
def State.keySetup (key : List Byte) (s : State) : State :=
  { s with cs := keyWords key s.cs, csStage := .keyed }

/-- The effect of 40_cipher R145 for a nonce: `CS` and `CS_STAGE`. -/
def State.ivSetup (nonce : List Byte) (s : State) : State :=
  { s with cs := ivWords nonce s.cs, csStage := .ready }

/-- `CS <- c'`. -/
def State.setCs (c : Vector Word 16) (s : State) : State := { s with cs := c }

/-- NOP (40_cipher R140). -/
def execNop (s : State) : Result := .next s

/-- KEYSETUP (40_cipher R144). -/
def execKeysetup (sel : KeySel) (s : State) : Result :=
  guarded (Instr.opcode (.keysetup sel)) [(keyOutside sel s, .bounds)] s <|
    withKey sel s fun key => .next (s.keySetup key)

/-- IVSETUP (40_cipher R145). -/
def execIvsetup (sel : NonceSel) (s : State) : Result :=
  guarded (Instr.opcode (.ivsetup sel)) [(s.csStage = .empty, .sequence), (nonceOutside sel s.src s, .bounds)] s <|
    withNonce sel s.src s fun nonce => .next (s.ivSetup nonce)

/-- GENBLOCK (40_cipher R148). -/
def execGenblock (s : State) : Result :=
  guarded (Instr.opcode .genblock) [(s.csStage ≠ .ready, .sequence), (s.pastBuf s.dst 64, .bounds)] s <|
    writeBuf s.dst.toNat (salsa20Block s.cs) s

/-- XCRYPT (40_cipher R150). The input is read whole before the first write (20_memory R85). -/
def execXcrypt (len : Nat) (s : State) : Result :=
  guarded (Instr.opcode (.xcrypt len))
      [(s.csStage ≠ .ready, .sequence), (s.pastBuf s.src len, .bounds), (s.pastBuf s.dst len, .bounds)] s <|
    withBuf s s.src.toNat len fun input =>
      let r := xcrypt s.cfg.ctrMode s.cs input
      andThen (writeBuf s.dst.toNat r.1 s) fun t => .next (t.setCs r.2)

end Sys2Proof.Machine
end

