-- ==== Sys2Proof/Machine/Codec.lean ====
section
/-! DEFINITION. The message framing commands (43_codec): ENCODE, DECODE, and the operations they share with the session. -/

namespace Sys2Proof.Machine

/-- The cipher state set up for one message: `KEY`, then the message's nonce (43_codec R211, R213). -/
def State.messageSetup (nonce : List Byte) (s : State) : State := (s.keySetup s.key.toList).ivSetup nonce

/-- `encode(src, n, dst)` (43_codec R211): the envelope `NONCE ‖ ciphertext` at `dst`, `CS` as after the encryption. -/
def encodeAt (src n dst : Nat) (s : State) : Result :=
  withBuf s src n fun pt =>
    let hdr := s.nonce.toList
    let t := s.messageSetup hdr
    let r := xcrypt t.cfg.ctrMode t.cs pt
    writeBuf dst (hdr ++ r.1) (t.setCs r.2)

/-- `decode(src, n, dst)` (43_codec R213): `none` for TooShort, else the plaintext, which is written with a NUL at `dst`. -/
def decodeAt (src n dst : Nat) (s : State) : Answer (State × Option (List Byte)) :=
  if n ≤ 8 then .next (s, none)
  else
    withBuf s src 8 fun hdr =>
      withBuf s (src + 8) (n - 8) fun ct =>
        let t := s.messageSetup hdr
        let r := xcrypt t.cfg.ctrMode t.cs ct
        andThen (writeBuf dst (r.1 ++ [0x00]) (t.setCs r.2)) fun u => .next (u, some r.1)

/-- ENCODE (43_codec R211). -/
def execEncode (len : Nat) (s : State) : Result :=
  guarded (Instr.opcode (.encode len))
      [(s.cfg.maxPayload < 8 + len, .length), (s.pastBuf s.src len, .bounds), (s.pastBuf s.dst (8 + len), .bounds)] s <|
    andThen (encodeAt s.src.toNat len s.dst.toNat s) fun t => .next (t.setResult (encodeResult len))

/-- DECODE (43_codec R213). -/
def execDecode (len : Nat) (s : State) : Result :=
  guarded (Instr.opcode (.decode len))
      [(s.cfg.maxPayload < len, .length), (s.pastBuf s.src len, .bounds),
       (decide (8 < len) && s.pastBuf s.dst (len - 8 + 1), .bounds)] s <|
    andThen (decodeAt s.src.toNat len s.dst.toNat s) fun r => .next (r.1.setResult (decodeResult len))

end Sys2Proof.Machine
end

