-- ==== Sys2Proof/Machine/KeyStore.lean ====
section
/-! DEFINITION. The KeyStore commands (41_keystore): KS_LOAD, KS_VERIFY, KS_STORE, KS_INITDEF, and the operations they share
with the reset sequence. -/

namespace Sys2Proof.Machine

/-- The 32 key bytes of the stored record (20_memory R87). -/
def State.storedKey (s : State) : Vector Byte 32 := Vector.ofFn fun i => s.nvmByte (s.cfg.nvmKeyAddr + i.val)

/-- The checksum byte of the stored record (20_memory R87). -/
def State.storedChecksum (s : State) : Byte := s.nvmByte (s.cfg.nvmKeyAddr + 32)

/-- The presence marker matches (41_keystore R171). -/
def State.markerMatches (s : State) : Bool := s.nvmByte s.cfg.nvmMarkerAddr = s.cfg.markerValue

/-- The outcome of `load()` (41_keystore R171). -/
def State.loadOutcome (s : State) : PskStatus :=
  if s.markerMatches then
    if xor8 s.storedKey.toList = s.storedChecksum then .valid else .error
  else .invalid

/-- KS_LOAD's effect (41_keystore R171): `PSK_STATUS`, `RESULT`, and `KEY` when the marker matches, also on a checksum
mismatch. -/
def State.load (s : State) : State :=
  let r := s.loadOutcome
  { s with
    key := if s.markerMatches then s.storedKey else s.key
    pskStatus := r
    result := keystoreResult r }

/-- `store_seq(k)` (41_keystore R170): the 32 key bytes, the checksum, the presence marker, in that order. -/
def State.storeSeq (key : List Byte) (s : State) : State :=
  ((s.nvmWrites s.cfg.nvmKeyAddr key).nvmWrite (s.cfg.nvmKeyAddr + 32) (xor8 key)).nvmWrite s.cfg.nvmMarkerAddr
    s.cfg.markerValue

/-- `initializeDefault` (41_keystore R177): the default key into `KEY` and into NVM, `PSK_STATUS` Valid. -/
def State.initDefault (s : State) : State :=
  { (State.storeSeq s.cfg.defaultPsk.toList s) with key := s.cfg.defaultPsk, pskStatus := .valid }

/-- The classification of a candidate key by `verify` (41_keystore R173): the degenerate test first, then the checksum. -/
def State.verifyOutcome (key : List Byte) (s : State) : PskStatus :=
  if key.all (· = 0x00) ∨ key.all (· = 0xFF) then .invalid
  else if xor8 key = s.storedChecksum then .valid
  else .error

/-- KS_LOAD (41_keystore R171). -/
def execKsLoad (s : State) : Result := .next s.load

/-- KS_VERIFY (41_keystore R173). -/
def execKsVerify (s : State) : Result :=
  guarded (Instr.opcode .ksVerify) [(s.pastBuf s.src 32, .bounds)] s <|
    withBuf s s.src.toNat 32 fun key => .next (s.setResult (keystoreResult (s.verifyOutcome key)))

/-- KS_STORE (41_keystore R175). -/
def execKsStore (s : State) : Result :=
  guarded (Instr.opcode .ksStore) [(s.pskStatus ≠ .valid, .state)] s <|
    .next (s.storeSeq s.key.toList)

/-- KS_INITDEF (41_keystore R177). -/
def execKsInitdef (s : State) : Result :=
  guarded (Instr.opcode .ksInitdef) [(s.pskStatus ≠ .invalid, .state)] s <|
    .next s.initDefault

end Sys2Proof.Machine
end

