-- ==== Sys2Proof/Machine/Nonce.lean ====
section
/-! DEFINITION. The nonce commands (42_nonce): NONCE_INC, NONCE_CMP, RESYNC. -/

namespace Sys2Proof.Machine

/-- `inc(n)` (42_nonce R191): byte 0 first, a byte that wraps to zero carries into the next, the last carry is dropped. -/
def incBytes : List Byte → List Byte
  | [] => []
  | b :: rest => if b + 1 ≠ 0 then (b + 1) :: rest else (b + 1) :: incBytes rest

/-- `compare(a, b)` (42_nonce R193): the first index from 0 where the bytes differ decides. -/
def compareBytes : List Byte → List Byte → Ordering
  | a :: as, b :: bs => if b < a then .gt else if a < b then .lt else compareBytes as bs
  | _, _ => .eq

/-- `NONCE <- n`. -/
def State.setNonce (n : List Byte) (s : State) : State := { s with nonce := toBytes 8 n }

/-- `NONCE <- inc(NONCE)`. -/
def State.incNonce (s : State) : State := s.setNonce (incBytes s.nonce.toList)

/-- The peer nonce is Greater than `NONCE`, so `resync` adopts it (42_nonce R195). -/
def State.adopts (peer : List Byte) (s : State) : Bool := compareBytes peer s.nonce.toList = .gt

/-- `resync(peer)` (42_nonce R195): adopt a greater peer nonce and increment it once. -/
def State.resync (peer : List Byte) (s : State) : State :=
  if s.adopts peer then s.setNonce (incBytes peer) else s

/-- NONCE_INC (42_nonce R191). -/
def execNonceInc (sel : NonceSel) (s : State) : Result :=
  guarded (Instr.opcode (.nonceInc sel)) [(nonceOutside sel s.dst s, .bounds)] s <|
    match sel with
    | .nonce => .next s.incNonce
    | .buf => withBuf s s.dst.toNat 8 fun n => writeBuf s.dst.toNat (incBytes n) s

/-- NONCE_CMP (42_nonce R193). -/
def execNonceCmp (sel : NonceSel) (s : State) : Result :=
  guarded (Instr.opcode (.nonceCmp sel)) [(s.pastBuf s.src 8, .bounds), (nonceOutside sel s.dst s, .bounds)] s <|
    withBuf s s.src.toNat 8 fun a =>
      withNonce sel s.dst s fun b => .next (s.setResult (compareResult (compareBytes a b)))

/-- RESYNC (42_nonce R195). -/
def execResync (s : State) : Result :=
  guarded (Instr.opcode .resync) [(s.pastBuf s.src 8, .bounds)] s <|
    withBuf s s.src.toNat 8 fun peer => .next ((s.resync peer).setResult (boolResult (s.adopts peer)))

end Sys2Proof.Machine
end

