-- ==== Sys2Proof/Machine/Session.lean ====
section
/-! DEFINITION. The session controller commands (44_session): SES_BYTE, SES_RX, SES_CONFIRM, SES_TICK. -/

namespace Sys2Proof.Machine

/-- CR or LF (00_scope R19). -/
def isNewline (b : Byte) : Bool := b = 0x0D ∨ b = 0x0A

/-- Printable: 0x20 to 0x7E (00_scope R18). -/
def isPrintable (b : Byte) : Bool := 0x20 ≤ b ∧ b ≤ 0x7E

/-- `sanitize(p)` (44_session R246). -/
def sanitize (p : List Byte) : List Byte := p.map fun b => if isPrintable b then b else 0x2E

/-- Selecting a mode (44_session R234): `MODE`, `LOCAL_ADDR`, the `SETADDR` event, then Operating and the mode's notice. -/
def State.selectMode (mode : Mode) (addr : Half) (n : Notice) (s : State) : State :=
  State.notify n
    { (State.emit (.setAddr addr) { s with mode := mode, localAddr := addr }) with session := .operating }

/-- `modesel(b)` (44_session R234). -/
def modesel (b : Byte) (s : State) : State :=
  if b = 0x31 then s.selectMode .sender s.cfg.senderAddr .modeSender
  else if b = 0x32 then s.selectMode .listener s.cfg.listenerAddr .statusListening
  else if isNewline b then s
  else s.notify .invalidInput

/-- Back to ModeSelection with a prompt (44_session R235, R250). -/
def State.promptMode (s : State) : State := State.notify .promptMode { s with session := .modeSelection }

/-- `listener_byte(b)` (44_session R236). -/
def listenerByte (b : Byte) (s : State) : State := if isNewline b then s.notify .statusListening else s

/-- The end of a flush that sends (44_session R240): `TXLEN`, `NONCE`, `SEND_PENDING`, the `SEND` event, `INLEN`. -/
def State.sent (n : Nat) (s : State) : State :=
  { (State.emit (.send s.cfg.listenerAddr s.cfg.srcEp s.cfg.dstEp s.cfg.txOptions (BitVec.ofNat 16 (8 + n)))
      { s.incNonce with txlen := BitVec.ofNat 16 (8 + n), sendPending := true }) with inlen := 0 }

/-- `flush()` (44_session R240): the PSK check, then the pending check, then the send. -/
def flush (s : State) : Result :=
  if s.pskStatus ≠ .valid then .next (State.notify .pskNotValid { s with inlen := 0 })
  else if s.sendPending then .next (State.notify .sendSuppressed { s with inlen := 0 })
  else
    andThen (encodeAt s.cfg.inBase s.inlen.toNat s.cfg.txBase s) fun t => .next (t.sent s.inlen.toNat)

/-- `sender_append(b)` (44_session R238): the later steps see the byte just stored (90_conflicts C6). -/
def senderAppend (b : Byte) (s : State) : Result :=
  andThen (writeBuf (s.cfg.inBase + s.inlen.toNat) [b] s) fun t =>
    let t := { t with inlen := t.inlen + 1 }
    if t.inlen.toNat = t.cfg.incap then flush (t.notify .inputOverflowFlushed) else .next t

/-- `sender_submit()` (44_session R239). -/
def senderSubmit (s : State) : Result :=
  if 0 < s.inlen.toNat ∨ s.cfg.emptyFlush = .send then flush s else .next s

/-- `sender_byte(b)` (44_session R237). -/
def senderByte (b : Byte) (s : State) : Result :=
  if isPrintable b then senderAppend b s
  else if isNewline b then senderSubmit s
  else .next s

/-- A mode-switch byte, `'M'` or `'m'`, taken as one because the input buffer is empty (44_session R235). -/
def State.switchesMode (b : Byte) (s : State) : Bool := (b = 0x4D ∨ b = 0x6D) ∧ s.inlen = 0

/-- The Operating arm of SES_BYTE (44_session R232). -/
def operatingByte (b : Byte) (s : State) : Result :=
  if s.switchesMode b then .next s.promptMode
  else
    match s.mode with
    | .listener => .next (listenerByte b s)
    | .sender => senderByte b s
    | .none => .next s

/-- SES_BYTE (44_session R232). -/
def execSesByte (b : Byte) (s : State) : Result :=
  guarded (Instr.opcode (.sesByte b)) [(s.session = .initial, .state)] s <|
    if s.session = .modeSelection then .next (modesel b s) else operatingByte b s

/-- The receive path takes the frame: Operating as Listener, or `P_RX_POLICY` = `Process` (44_session R245). -/
def State.handlesFrames (s : State) : Bool :=
  (s.session = .operating ∧ s.mode = .listener) ∨ s.cfg.rxPolicy = .process

/-- The receive path after `RESULT <- 1` (44_session R245). -/
def receive (len : Nat) (s : State) : Result :=
  if len ≤ 8 then .next (s.notify .frameTooShort)
  else
    withBuf s s.cfg.rxBase 8 fun hdr =>
      andThen (decodeAt s.cfg.rxBase len s.cfg.ptBase s) fun r =>
        let t : State := { r.1 with ptlen := BitVec.ofNat 16 (len - 8) }
        .next (((t.emit (.display (sanitize (r.2.getD [])))).resync hdr).notify .statusListening)

/-- SES_RX (44_session R245). -/
def execSesRx (len : Nat) (s : State) : Result :=
  guarded (Instr.opcode (.sesRx len)) [(s.session = .initial, .state), (s.cfg.maxPayload < len, .length)] s <|
    if s.handlesFrames then receive len (s.setResult (boolResult true)) else .next (s.setResult (boolResult false))

/-- SES_CONFIRM (44_session R248). -/
def execSesConfirm (c : Confirmation) (s : State) : Result :=
  guarded (Instr.opcode (.sesConfirm c)) [(s.session = .initial, .state)] s <|
    .next (if s.sendPending then { s with sendPending := false, confFail := c = .fail } else s)

/-- SES_TICK (44_session R250). -/
def execSesTick (s : State) : Result :=
  guarded (Instr.opcode .sesTick) [(s.session = .initial, .state)] s <|
    .next (if s.session = .operating ∧ s.mode = .none then s.promptMode else s)

end Sys2Proof.Machine
end

