-- ==== Sys2Proof/Machine/Dispatch.lean ====
section
/-! DEFINITION. The meaning of every instruction, one arm per constructor. -/

namespace Sys2Proof.Machine

def exec (i : Instr) (s : State) : Host.Outcome State Fault Refusal :=
  match i with
  | .nop => Sys2Proof.Machine.execNop s
  | .keysetup sel => Sys2Proof.Machine.execKeysetup sel s
  | .ivsetup sel => Sys2Proof.Machine.execIvsetup sel s
  | .genblock => Sys2Proof.Machine.execGenblock s
  | .xcrypt len => Sys2Proof.Machine.execXcrypt len s
  | .ksLoad => Sys2Proof.Machine.execKsLoad s
  | .ksVerify => Sys2Proof.Machine.execKsVerify s
  | .ksStore => Sys2Proof.Machine.execKsStore s
  | .ksInitdef => Sys2Proof.Machine.execKsInitdef s
  | .nonceInc sel => Sys2Proof.Machine.execNonceInc sel s
  | .nonceCmp sel => Sys2Proof.Machine.execNonceCmp sel s
  | .resync => Sys2Proof.Machine.execResync s
  | .encode len => Sys2Proof.Machine.execEncode len s
  | .decode len => Sys2Proof.Machine.execDecode len s
  | .sesByte b => Sys2Proof.Machine.execSesByte b s
  | .sesRx len => Sys2Proof.Machine.execSesRx len s
  | .sesConfirm c => Sys2Proof.Machine.execSesConfirm c s
  | .sesTick => Sys2Proof.Machine.execSesTick s

end Sys2Proof.Machine
end

