-- ==== Sys2Proof/Machine/Reset.lean ====
section
/-! DEFINITION. The reset input and the reset sequence (70_reset). -/

namespace Sys2Proof.Machine

/-- The reset input (70_reset R310, R312, R313): every register at its reset value, BUF unwritten, a latched command lost. NVM,
its write log and the delivered events stay (log 9), and so do the configuration and the model's own fields (log 19). -/
def State.applyReset (s : State) : State :=
  { State.powerOn s.cfg s.nvm with
    nvmLog := s.nvmLog
    events := s.events
    turns := s.turns
    reply := s.reply
    freeCtr := s.freeCtr }

/-- The key part of the reset sequence (70_reset R311): load, and the default key when none is stored. -/
def State.bootKey (s : State) : State :=
  let t := s.load
  match t.pskStatus with
  | .invalid => (t.notify .keyInvalid).initDefault
  | .error => t.notify .keyCorrupt
  | .valid => t

/-- The reset sequence (70_reset R311), one engine step. -/
def State.resetSequence (s : State) : State :=
  { (State.notify .promptMode { s.bootKey with session := .modeSelection }).complete with bootPending := false }

end Sys2Proof.Machine
end

