-- ==== Sys2Proof/Machine/Engine.lean ====
section
/-! DEFINITION. The engine's turn (60_exceptions R280) and the turns of the environment (20_memory R97). -/

namespace Sys2Proof.Machine

/-- `engine_step` (60_exceptions R280): decode `CMD_LATCH`, run the command or record its decoding error, `BUSY <- 0`. -/
def engineStep (s : State) : Result :=
  match decode s.cmdLatch with
  | .error e => .next (s.takeError (opField s.cmdLatch) e).complete
  | .ok i => andThen (exec i s) fun t => .next t.complete

/-- The engine's turn: the reset sequence, once after every reset (70_reset R311), else the command in flight; with neither,
the engine is idle (60_exceptions R298). -/
def engineTurn (s : State) : Result :=
  if s.busy then
    if s.bootPending then .next s.resetSequence else engineStep s
  else .next s

/-- One turn (log 5). With no turn listed, the engine has it. -/
def takeTurn (s : State) : Result :=
  match s.turns with
  | [] => engineTurn s
  | .engine :: rest => engineTurn { s with turns := rest }
  | .host a :: rest => .next (State.access a { s with turns := rest })
  | .reset :: rest => .next (State.applyReset { s with turns := rest })

/-- A command word in `CMD_LATCH` with `BUSY` = 1, the reset sequence run if it had not ended, and the next turn the engine's
(log 7). -/
def State.placeCommand (w : Word) (s : State) : State :=
  let t := if s.bootPending then s.resetSequence else s
  { (t.issue w) with turns := .engine :: t.turns }

end Sys2Proof.Machine
end

