-- ==== Sys2Proof/Machine/Program.lean ====
section
/-! DEFINITION. Host programs (30_encoding R130 to R132), as the turns they give. -/

namespace Sys2Proof.Machine

/-- The actions of a host program (30_encoding R130). -/
inductive HostAction where
  /-- `WR <reg>, <value>` -/
  | wr (r : Reg) (v : Word)
  /-- `RD <reg>` -/
  | rd (r : Reg)
  /-- `WRB <offset>, <bytes>`, a 16-bit offset (log 26) -/
  | wrb (offset : Half) (bytes : List Byte)
  /-- `CMD <command>` -/
  | cmd (i : Instr)
  /-- `WAIT` -/
  | wait
  deriving DecidableEq, Repr

/-- The host address of a register. -/
def Reg.address (r : Reg) : BitVec 17 := BitVec.ofNat 17 r.offset

/-- The host address of a BUF byte. An offset past 0xFFFF wraps in the 17 bits of a host address (DESIGN CHOICE, log 26). -/
def bufAddress (offset : Nat) : BitVec 17 := BitVec.ofNat 17 (windowBase + offset)

/-- A 32-bit write of a register. -/
def writeRegTurn (r : Reg) (v : Word) : Turn := .host (.write .word r.address v)

/-- 8-bit writes of bytes to consecutive BUF offsets. -/
def writeBytesTurns : Nat → List Byte → List Turn
  | _, [] => []
  | offset, b :: bs => .host (.write .byte (bufAddress offset) (b.setWidth 32)) :: writeBytesTurns (offset + 1) bs

/-- What an action puts on the bus (30_encoding R130). WAIT is a turn of the engine, which ends what is in flight, and the read
of `STATUS` that sees it ended (log 17). The engine gets a turn at WAIT and nowhere else, so the actions between CMD and WAIT find
`BUSY` = 1 (DESIGN CHOICE, log 25). -/
def HostAction.turns : HostAction → List Turn
  | .wr r v => [writeRegTurn r v]
  | .rd r => [.host (.read .word r.address)]
  | .wrb offset bytes => writeBytesTurns offset.toNat bytes
  | .cmd i => [writeRegTurn .cmd (encode i)]
  | .wait => [.engine, .host (.read .word Reg.status.address)]

/-- `DO <command>` (30_encoding R132). -/
def doCommand (i : Instr) : List HostAction := [.wait, .cmd i, .wait]

/-- `SETSRC <v>` = `WR SRC, <v>` (30_encoding R132), for every value WR takes. -/
def setSrc (v : Word) : List HostAction := [.wr .src v]

/-- `SETDST <v>` = `WR DST, <v>` (30_encoding R132), for every value WR takes. -/
def setDst (v : Word) : List HostAction := [.wr .dst v]

/-- The ASCII codes of a text (00_scope R19). -/
def asciiBytes (text : List Char) : List Byte := text.map fun c => BitVec.ofNat 8 c.toNat

/-- `PUTS <offset>, "<text>"` (30_encoding R132). -/
def putText (offset : Half) (text : List Char) : List HostAction := [.wrb offset (asciiBytes text)]

/-- `TYPE "<text>"` (30_encoding R132). -/
def typeText (text : List Char) : List HostAction := (asciiBytes text).flatMap fun b => doCommand (.sesByte b)

/-- `CLR` (30_encoding R132). -/
def clearFlagsAction : List HostAction := [.wr .status 0x00000006]

/-- A host program to come after the turns already listed. -/
def State.loadProgram (program : List HostAction) (s : State) : State :=
  { s with turns := s.turns ++ program.flatMap HostAction.turns }

end Sys2Proof.Machine
end

