-- ==== Sys2Proof/Machine/Step.lean ====
section
/-! DEFINITION. One step of the machine: one turn of the host, of the engine or of the reset input. -/

namespace Sys2Proof.Machine

/-- One step (20_memory R97): the next turn. A configuration outside 00_scope R9 is no machine (log 14). -/
def step (s : State) : Host.Outcome State Fault Refusal :=
  if s.cfg.wf then takeTurn s else .refused .inadmissibleConfig

/-- The state whose very next step runs the command word `w`: nothing is fetched from memory, a command comes in through
`CMD` (10_state R48; log 7). -/
def State.withFetchWord (s : State) (nbits w : Nat) : State := s.placeCommand (BitVec.ofNat 32 (w % 2 ^ nbits))

end Sys2Proof.Machine
end

