-- ==== Sys2Proof/Safety.lean ====
section
/-! DEFINITION. What holds of every state a run reaches, in the terms the statements use. -/

namespace Sys2Proof.Machine

/-- The invariant of the machine. `step` keeps it from every state that has it, and reset has it. -/
structure State.Inv (s : State) : Prop where
  /-- the configuration is a machine (00_scope R9) -/
  cfg_ok : s.cfg.wf
  /-- BUF is in canonical form and inside `BUF_SIZE` (20_memory R81) -/
  buf_ok : Memory.wf s.cfg.bufSize Memory.bufBlank s.buf
  /-- NVM is in canonical form and inside `P_NVM_SIZE` (20_memory R87) -/
  nvm_ok : Memory.wf s.cfg.nvmSize Memory.nvmBlank s.nvm
  /-- between commands `INLEN` < `P_INCAP` (10_state R40) -/
  inlen_lt : s.inlen.toNat < s.cfg.incap
  /-- every byte the input buffer holds has been written since reset (10_state R40) -/
  input_written : ∀ i < s.inlen.toNat, (s.bufByte (s.cfg.inBase + i)).isSome
  /-- `BUSY` is 1 until the reset sequence ends (10_state R48) -/
  boot_busy : s.bootPending = true → s.busy = true
  /-- `SESSION` is Initial exactly until the reset sequence ends (44_session R230, R233) -/
  boot_session : s.bootPending = true ↔ s.session = .initial
  /-- Operating with `MODE` = None is not reached (44_session R242) -/
  mode_selected : s.session = .operating → s.mode ≠ .none
  /-- after the reset sequence NVM holds a key record (70_reset R311) -/
  marker_stored : s.bootPending = false → s.markerMatches = true
  /-- after the reset sequence `PSK_STATUS` is Valid or Error (70_reset R311, 41_keystore R171) -/
  psk_decided : s.bootPending = false → s.pskStatus ≠ .invalid
  /-- words 0, 5, 10, 15 hold the constant once a key is set up (40_cipher R147) -/
  constant_words : s.csStage ≠ .empty →
    s.cs[0] = sigma0 ∧ s.cs[5] = sigma1 ∧ s.cs[10] = sigma2 ∧ s.cs[15] = sigma3
  /-- the block counter never moves in `Frozen` mode (40_cipher R149) -/
  counter_frozen : s.cfg.ctrMode = .frozen → s.cs[8] = 0 ∧ s.cs[9] = 0
  /-- the recorded error codes are those of 60_exceptions R281 -/
  error_code : (s.errinfo.extractLsb' 0 8).toNat ≤ 6

end Sys2Proof.Machine
end

