-- ==== Sys2Proof/Certificates/Slice0/Obligations.lean ====
section
/-! DEFINITION. The statements for the provers, and the words they are said in. -/

namespace Sys2Proof.Claims

open Sys2Proof.Machine

/-- A state after a command error: `ERR` set, `ERROP` and `ERRCODE` recorded, all else as before (60_exceptions R283). -/
def erred (s : State) (op code : Byte) : State := { s with err := true, errinfo := op ++ code }

/-- Every BUF byte outside `[a, a + n)` reads in `t` as in `s`. -/
def SameOutside (s t : State) (a n : Nat) : Prop := ∀ x, x < a ∨ a + n ≤ x → t.bufByte x = s.bufByte x

/-- BUF holds these bytes from offset `a` up. -/
def Stored (t : State) (a : Nat) (bytes : List Byte) : Prop := t.bufBytes a bytes.length = some bytes

/-- The range `[a, a + n)` is admitted (20_memory R86). -/
def Fits (s : State) (a : Half) (n : Nat) : Prop := a.toNat + n ≤ s.cfg.bufSize

/-- A word with this opcode and a reserved bit set is `E_FIELD` (30_encoding R114, R115). -/
def ReservedBitsRejected (op : Byte) (mask fixed : Word) : Prop :=
  ∀ w : Word, opField w = op → w &&& mask ≠ fixed → decode w = .error .field

/-- The operand range of a selected key is admitted (30_encoding R116). -/
def KeyFits (sel : KeySel) (s : State) : Prop := sel = .buf → Fits s s.src 32

/-- The selected key: `KEY`, or 32 bytes of BUF. -/
def keyOperand (sel : KeySel) (s : State) : Option (List Byte) :=
  match sel with
  | .psk => some s.key.toList
  | .buf => s.bufBytes s.src.toNat 32

/-- The operand range of a selected nonce is admitted (30_encoding R116). -/
def NonceFits (sel : NonceSel) (offset : Half) (s : State) : Prop := sel = .buf → Fits s offset 8

/-- The selected nonce: `NONCE`, or 8 bytes of BUF. -/
def nonceOperand (sel : NonceSel) (offset : Half) (s : State) : Option (List Byte) :=
  match sel with
  | .nonce => some s.nonce.toList
  | .buf => s.bufBytes offset.toNat 8

/-- The cipher state set up for one message (40_cipher R141, R142). -/
def messageWords (key nonce : List Byte) : Vector Word 16 :=
  #v[0x61707865, le32 key 0, le32 key 4, le32 key 8, le32 key 12, 0x3320646E, le32 nonce 0, le32 nonce 4,
     0, 0, 0x79622D32, le32 key 16, le32 key 20, le32 key 24, le32 key 28, 0x6B206574]

/-- The cipher state after `n` blocks (40_cipher R149). -/
def afterBlocks (mode : CtrMode) (n : Nat) (x : Vector Word 16) : Vector Word 16 := (ctrAdvance mode)^[n] x

/-- The Salsa20 quarter-round on the words at four places, each step seeing the step before (40_cipher R143): every line of
R143 is one of these. -/
def onFour (a b c d : Fin 16) (x : Vector Word 16) : Vector Word 16 :=
  let y1 := x[b] ^^^ (x[a] + x[d]).rotateLeft 7
  let y2 := x[c] ^^^ (y1 + x[a]).rotateLeft 9
  let y3 := x[d] ^^^ (y2 + y1).rotateLeft 13
  let y0 := x[a] ^^^ (y3 + y2).rotateLeft 18
  (((x.set b y1).set c y2).set d y3).set a y0

/-- How many blocks `n` bytes start (40_cipher R150). -/
def blockCount (n : Nat) : Nat := (n + 63) / 64

/-- `out` is `input` XOR the keystream from the cipher state `x`, byte by byte (40_cipher R150). -/
def Xored (mode : CtrMode) (x : Vector Word 16) (input out : List Byte) : Prop :=
  out.length = input.length ∧
  ∀ p < input.length,
    out.getD p 0 = input.getD p 0 ^^^ (salsa20Block (afterBlocks mode (p / 64) x)).getD (p % 64) 0

/-- `value(n)`, byte 0 least significant (42_nonce R192). -/
def value : List Byte → Nat
  | [] => 0
  | b :: rest => b.toNat + 256 * value rest

/-- `compare(a, b)` = Greater: at the first index where the bytes differ, `a` has the greater (42_nonce R193). -/
def Greater (a b : List Byte) : Prop := ∃ i < 8, (∀ j < i, a.getD j 0 = b.getD j 0) ∧ b.getD i 0 < a.getD i 0

/-- The NVM write log entries of `store_seq` (41_keystore R170): key, checksum, marker, in that order. -/
def storeLog (cfg : Config) (key : Vector Byte 32) : List Host.Cell :=
  (List.finRange 32).map (fun i => (cfg.nvmKeyAddr + i.val, key[i])) ++
    [(cfg.nvmKeyAddr + 32, xor8 key.toList), (cfg.nvmMarkerAddr, cfg.markerValue)]

/-- NVM in `t` is NVM in `s` with the record of this key stored (20_memory R87). -/
def RecordStored (s t : State) (key : Vector Byte 32) : Prop :=
  (∀ i : Fin 32, t.nvmByte (s.cfg.nvmKeyAddr + i.val) = key[i]) ∧
  t.nvmByte (s.cfg.nvmKeyAddr + 32) = xor8 key.toList ∧
  t.nvmByte s.cfg.nvmMarkerAddr = s.cfg.markerValue ∧
  ∀ a, ¬ (s.cfg.nvmKeyAddr ≤ a ∧ a ≤ s.cfg.nvmKeyAddr + 32) → a ≠ s.cfg.nvmMarkerAddr → t.nvmByte a = s.nvmByte a

/-- The opcode map (30_encoding R113). -/
def assignedOpcodes : List Byte :=
  [0x00, 0x01, 0x02, 0x03, 0x04, 0x10, 0x11, 0x12, 0x13, 0x20, 0x21, 0x22, 0x30, 0x31, 0x40, 0x41, 0x42, 0x43]

/-- Match and mask of each command, in the order of 30_encoding R114. -/
def matchMask : List (Word × Word) :=
  [(0x00000000, 0xFFFFFFFF), (0x01000000, 0xFFFEFFFF), (0x02000000, 0xFFFEFFFF), (0x03000000, 0xFFFFFFFF),
   (0x04000000, 0xFFFF0000), (0x10000000, 0xFFFFFFFF), (0x11000000, 0xFFFFFFFF), (0x12000000, 0xFFFFFFFF),
   (0x13000000, 0xFFFFFFFF), (0x20000000, 0xFFFEFFFF), (0x21000000, 0xFFFEFFFF), (0x22000000, 0xFFFFFFFF),
   (0x30000000, 0xFFFF0000), (0x31000000, 0xFFFF0000), (0x40000000, 0xFF00FFFF), (0x41000000, 0xFFFF0000),
   (0x42000000, 0xFFFEFFFF), (0x43000000, 0xFFFFFFFF)]

/-- The word matches some row of 30_encoding R114. -/
def matchesARow (w : Word) : Bool := matchMask.any fun r => w &&& r.2 = r.1

/-- The row of 30_encoding R114 a command stands in. -/
def rowOf : Instr → Word × Word
  | .nop => (0x00000000, 0xFFFFFFFF)
  | .keysetup _ => (0x01000000, 0xFFFEFFFF)
  | .ivsetup _ => (0x02000000, 0xFFFEFFFF)
  | .genblock => (0x03000000, 0xFFFFFFFF)
  | .xcrypt _ => (0x04000000, 0xFFFF0000)
  | .ksLoad => (0x10000000, 0xFFFFFFFF)
  | .ksVerify => (0x11000000, 0xFFFFFFFF)
  | .ksStore => (0x12000000, 0xFFFFFFFF)
  | .ksInitdef => (0x13000000, 0xFFFFFFFF)
  | .nonceInc _ => (0x20000000, 0xFFFEFFFF)
  | .nonceCmp _ => (0x21000000, 0xFFFEFFFF)
  | .resync => (0x22000000, 0xFFFFFFFF)
  | .encode _ => (0x30000000, 0xFFFF0000)
  | .decode _ => (0x31000000, 0xFFFF0000)
  | .sesByte _ => (0x40000000, 0xFF00FFFF)
  | .sesRx _ => (0x41000000, 0xFFFF0000)
  | .sesConfirm _ => (0x42000000, 0xFFFEFFFF)
  | .sesTick => (0x43000000, 0xFFFFFFFF)

/-- The BUF ranges each command checks, (offset, length), in the order of 30_encoding R116. -/
def checkedRanges (i : Instr) (s : State) : List (Nat × Nat) :=
  match i with
  | .keysetup .buf => [(s.src.toNat, 32)]
  | .ivsetup .buf => [(s.src.toNat, 8)]
  | .genblock => [(s.dst.toNat, 64)]
  | .xcrypt len => [(s.src.toNat, len), (s.dst.toNat, len)]
  | .ksVerify => [(s.src.toNat, 32)]
  | .nonceInc .buf => [(s.dst.toNat, 8)]
  | .nonceCmp .nonce => [(s.src.toNat, 8)]
  | .nonceCmp .buf => [(s.src.toNat, 8), (s.dst.toNat, 8)]
  | .resync => [(s.src.toNat, 8)]
  | .encode len => [(s.src.toNat, len), (s.dst.toNat, 8 + len)]
  | .decode len => if 8 < len then [(s.src.toNat, len), (s.dst.toNat, len - 8 + 1)] else [(s.src.toNat, len)]
  | _ => []

/-- `E_STATE`: the key or session state refuses the command (60_exceptions R281). -/
def stateRefused (i : Instr) (s : State) : Bool :=
  match i with
  | .ksStore => s.pskStatus ≠ .valid
  | .ksInitdef => s.pskStatus ≠ .invalid
  | .sesByte _ => s.session = .initial
  | .sesRx _ => s.session = .initial
  | .sesConfirm _ => s.session = .initial
  | .sesTick => s.session = .initial
  | _ => false

/-- `E_SEQUENCE`: the cipher state is not far enough set up (60_exceptions R281). -/
def sequenceRefused (i : Instr) (s : State) : Bool :=
  match i with
  | .ivsetup _ => s.csStage = .empty
  | .genblock => s.csStage ≠ .ready
  | .xcrypt _ => s.csStage ≠ .ready
  | _ => false

/-- `E_LENGTH`: the length exceeds the payload bound (60_exceptions R281). -/
def lengthRefused (i : Instr) (s : State) : Bool :=
  match i with
  | .encode len => s.cfg.maxPayload < 8 + len
  | .decode len => s.cfg.maxPayload < len
  | .sesRx len => s.cfg.maxPayload < len
  | _ => false

/-- `E_BOUNDS`: a checked range runs past `BUF_SIZE` (20_memory R86). -/
def boundsRefused (i : Instr) (s : State) : Bool :=
  (checkedRanges i s).any fun r => s.cfg.bufSize < r.1 + r.2

/-- The error a decoded command raises: the first that applies in the order of 60_exceptions R282. -/
def commandError (i : Instr) (s : State) : Option CmdErr :=
  if stateRefused i s then some .state
  else if sequenceRefused i s then some .sequence
  else if lengthRefused i s then some .length
  else if boundsRefused i s then some .bounds
  else none

/-- The error a command word raises (60_exceptions R282): `E_OPCODE`, then `E_FIELD`, then the command's own. -/
def wordError (w : Word) (s : State) : Option CmdErr :=
  if opField w ∉ assignedOpcodes then some .opcode
  else if ¬ matchesARow w then some .field
  else
    match decode w with
    | .ok i => commandError i s
    | .error e => some e

/-- The codes of 60_exceptions R281. -/
def codeOf : CmdErr → Byte
  | .opcode => 0x01
  | .field => 0x02
  | .state => 0x03
  | .sequence => 0x04
  | .length => 0x05
  | .bounds => 0x06

/-- The BUF ranges a command reads when it raises no error (40_cipher to 43_codec; SES_RX of a frame it takes). -/
def readRanges (i : Instr) (s : State) : List (Nat × Nat) :=
  match i with
  | .keysetup .buf => [(s.src.toNat, 32)]
  | .ivsetup .buf => [(s.src.toNat, 8)]
  | .xcrypt len => [(s.src.toNat, len)]
  | .ksVerify => [(s.src.toNat, 32)]
  | .nonceInc .buf => [(s.dst.toNat, 8)]
  | .nonceCmp .nonce => [(s.src.toNat, 8)]
  | .nonceCmp .buf => [(s.src.toNat, 8), (s.dst.toNat, 8)]
  | .resync => [(s.src.toNat, 8)]
  | .encode len => [(s.src.toNat, len)]
  | .decode len => if 8 < len then [(s.src.toNat, len)] else []
  | .sesRx len => if s.handlesFrames ∧ 8 < len then [(s.cfg.rxBase, len)] else []
  | _ => []

/-- The BUF ranges a command may store to (20_memory R83, R85; 40_cipher to 44_session). -/
def storedRanges (i : Instr) (s : State) : List (Nat × Nat) :=
  match i with
  | .genblock => [(s.dst.toNat, 64)]
  | .xcrypt len => [(s.dst.toNat, len)]
  | .nonceInc .buf => [(s.dst.toNat, 8)]
  | .encode len => [(s.dst.toNat, 8 + len)]
  | .decode len => if 8 < len then [(s.dst.toNat, len - 8 + 1)] else []
  | .sesByte _ => [(s.cfg.inBase + s.inlen.toNat, 1), (s.cfg.txBase, 8 + s.inlen.toNat + 1)]
  | .sesRx len => if 8 < len then [(s.cfg.ptBase, len - 8 + 1)] else []
  | _ => []

/-- What `flush()` makes of `s` (44_session R240). -/
def FlushGives (s t : State) : Prop :=
  if s.pskStatus ≠ .valid then
    t = { s with inlen := 0, events := s.events ++ [.notice .pskNotValid] }
  else if s.sendPending then
    t = { s with inlen := 0, events := s.events ++ [.notice .sendSuppressed] }
  else
    ∃ pt ct, s.bufBytes s.cfg.inBase s.inlen.toNat = some pt ∧
      Xored s.cfg.ctrMode (messageWords s.key.toList s.nonce.toList) pt ct ∧
      t = { s with
        buf := t.buf
        cs := afterBlocks s.cfg.ctrMode (blockCount s.inlen.toNat) (messageWords s.key.toList s.nonce.toList)
        csStage := .ready
        txlen := BitVec.ofNat 16 (8 + s.inlen.toNat)
        nonce := t.nonce
        sendPending := true
        events := s.events ++
          [.send s.cfg.listenerAddr s.cfg.srcEp s.cfg.dstEp s.cfg.txOptions (BitVec.ofNat 16 (8 + s.inlen.toNat))]
        inlen := 0 } ∧
      value t.nonce.toList = (value s.nonce.toList + 1) % 2 ^ 64 ∧
      Stored t s.cfg.txBase (s.nonce.toList ++ ct) ∧
      SameOutside s t s.cfg.txBase (8 + s.inlen.toNat)

/-- What `sender_byte(b)` makes of `s` (44_session R237 to R239). -/
def SenderByteGives (b : Byte) (s t : State) : Prop :=
  if 0x20 ≤ b ∧ b ≤ 0x7E then
    ∃ u, u = { s with buf := u.buf, inlen := s.inlen + 1 } ∧
      Stored u (s.cfg.inBase + s.inlen.toNat) [b] ∧
      SameOutside s u (s.cfg.inBase + s.inlen.toNat) 1 ∧
      if s.inlen.toNat + 1 = s.cfg.incap then
        FlushGives { u with events := s.events ++ [.notice .inputOverflowFlushed] } t
      else t = u
  else if b = 0x0D ∨ b = 0x0A then
    if 0 < s.inlen.toNat ∨ s.cfg.emptyFlush = .send then FlushGives s t else t = s
  else t = s

/-- The events a command may emit (44_session R231; SETADDR, SEND and DISPLAY: R234, R240, R245). -/
def mayEmit (i : Instr) (e : Event) : Prop :=
  match i, e with
  | .sesByte _, .notice n =>
    n = .promptMode ∨ n = .invalidInput ∨ n = .sendSuppressed ∨ n = .inputOverflowFlushed ∨ n = .pskNotValid ∨
      n = .statusListening ∨ n = .modeSender
  | .sesByte _, .setAddr _ => True
  | .sesByte _, .send .. => True
  | .sesRx _, .notice n => n = .frameTooShort ∨ n = .statusListening
  | .sesRx _, .display _ => True
  | .sesTick, .notice n => n = .promptMode
  | _, _ => False

/-- The stored key record does not check: the marker matches, the checksum does not (41_keystore R171). -/
def CorruptRecord (s : State) : Prop :=
  s.nvmByte s.cfg.nvmMarkerAddr = s.cfg.markerValue ∧
  xor8 ((List.range 32).map fun i => s.nvmByte (s.cfg.nvmKeyAddr + i)) ≠ s.nvmByte (s.cfg.nvmKeyAddr + 32)

/-- The host access at the head of the turns, with an admissible configuration. -/
def HostTurn (s : State) (a : Access) (rest : List Turn) : Prop := s.cfg.wf ∧ s.turns = .host a :: rest

/-- The engine has the turn, with an admissible configuration: no turn is listed, or the engine's is next. -/
def EngineTurn (s : State) (rest : List Turn) : Prop :=
  s.cfg.wf ∧ ((s.turns = [] ∧ rest = []) ∨ s.turns = .engine :: rest)

/-- `t` is `s` after `n` steps of the machine. -/
def StepsTo : Nat → State → State → Prop
  | 0, s, t => s = t
  | n + 1, s, t => ∃ u, step s = .next u ∧ StepsTo n u t

end Sys2Proof.Claims

open Sys2Proof Sys2Proof.Machine Sys2Proof.Claims

/-! ## Encoding -/

/-- A few words written out from 30_encoding R113 decode to the commands they stand for. -/
def Obligations.SpecWordsDecode : Prop :=
  decode 0x01010000 = .ok (.keysetup .buf) ∧ decode 0x02000000 = .ok (.ivsetup .nonce) ∧
  decode 0x04000046 = .ok (.xcrypt 70) ∧ decode 0x12000000 = .ok .ksStore ∧
  decode 0x20010000 = .ok (.nonceInc .buf) ∧ decode 0x3100000A = .ok (.decode 10) ∧
  decode 0x40310000 = .ok (.sesByte 0x31) ∧ decode 0x42010000 = .ok (.sesConfirm .fail) ∧
  decode 0x05000000 = .error .opcode ∧ decode 0x00000001 = .error .field ∧ decode 0x02030000 = .error .field ∧
  decode 0x40410001 = .error .field ∧ decode 0x43010000 = .error .field

/-- 30_encoding R131: the command text and the word of each command. -/
def Obligations.CommandTextAndWord : Prop :=
  (Instr.asmText .nop = "NOP" ∧ encode .nop = 0x00000000) ∧
  (Instr.asmText (.keysetup .psk) = "KEYSETUP psk" ∧ encode (.keysetup .psk) = 0x01000000) ∧
  (Instr.asmText (.keysetup .buf) = "KEYSETUP buf" ∧ encode (.keysetup .buf) = 0x01010000) ∧
  (Instr.asmText (.ivsetup .nonce) = "IVSETUP nonce" ∧ encode (.ivsetup .nonce) = 0x02000000) ∧
  (Instr.asmText (.ivsetup .buf) = "IVSETUP buf" ∧ encode (.ivsetup .buf) = 0x02010000) ∧
  (Instr.asmText .genblock = "GENBLOCK" ∧ encode .genblock = 0x03000000) ∧
  (∀ len, Instr.asmText (.xcrypt len) = "XCRYPT " ++ len.repr ∧
    encode (.xcrypt len) = 0x04000000 ||| (BitVec.ofNat 16 len).setWidth 32) ∧
  (Instr.asmText .ksLoad = "KS_LOAD" ∧ encode .ksLoad = 0x10000000) ∧
  (Instr.asmText .ksVerify = "KS_VERIFY" ∧ encode .ksVerify = 0x11000000) ∧
  (Instr.asmText .ksStore = "KS_STORE" ∧ encode .ksStore = 0x12000000) ∧
  (Instr.asmText .ksInitdef = "KS_INITDEF" ∧ encode .ksInitdef = 0x13000000) ∧
  (Instr.asmText (.nonceInc .nonce) = "NONCE_INC nonce" ∧ encode (.nonceInc .nonce) = 0x20000000) ∧
  (Instr.asmText (.nonceInc .buf) = "NONCE_INC buf" ∧ encode (.nonceInc .buf) = 0x20010000) ∧
  (Instr.asmText (.nonceCmp .nonce) = "NONCE_CMP nonce" ∧ encode (.nonceCmp .nonce) = 0x21000000) ∧
  (Instr.asmText (.nonceCmp .buf) = "NONCE_CMP buf" ∧ encode (.nonceCmp .buf) = 0x21010000) ∧
  (Instr.asmText .resync = "RESYNC" ∧ encode .resync = 0x22000000) ∧
  (∀ len, Instr.asmText (.encode len) = "ENCODE " ++ len.repr ∧
    encode (.encode len) = 0x30000000 ||| (BitVec.ofNat 16 len).setWidth 32) ∧
  (∀ len, Instr.asmText (.decode len) = "DECODE " ++ len.repr ∧
    encode (.decode len) = 0x31000000 ||| (BitVec.ofNat 16 len).setWidth 32) ∧
  (∀ b : Byte, Instr.asmText (.sesByte b) = "SES_BYTE " ++ b.toNat.repr ∧
    encode (.sesByte b) = 0x40000000 ||| (b.setWidth 32 <<< 16)) ∧
  (∀ len, Instr.asmText (.sesRx len) = "SES_RX " ++ len.repr ∧
    encode (.sesRx len) = 0x41000000 ||| (BitVec.ofNat 16 len).setWidth 32) ∧
  (Instr.asmText (.sesConfirm .ok) = "SES_CONFIRM ok" ∧ encode (.sesConfirm .ok) = 0x42000000) ∧
  (Instr.asmText (.sesConfirm .fail) = "SES_CONFIRM fail" ∧ encode (.sesConfirm .fail) = 0x42010000) ∧
  (Instr.asmText .sesTick = "SES_TICK" ∧ encode .sesTick = 0x43000000)

/-- Decoding the encoding of any well-formed command gives the command back, with every operand. -/
def Obligations.DecodeOfEncodeIsTheCommand : Prop := ∀ i : Instr, i.wellFormed = true → decode (encode i) = .ok i

/-- Every word that decodes is the encoding of the one command it decodes to, and that command is well formed. -/
def Obligations.EncodeOfDecodeIsTheWord : Prop :=
  ∀ (w : Word) (i : Instr), decode w = .ok i → i.wellFormed = true ∧ encode i = w

/-- 30_encoding R114: a word selects a command when it matches the command's row, and no two rows match one word. -/
def Obligations.DecodeFollowsMatchAndMask : Prop :=
  (∀ (w : Word) (i : Instr), decode w = .ok i → rowOf i ∈ matchMask ∧ w &&& (rowOf i).2 = (rowOf i).1) ∧
  (∀ w : Word, ∀ r ∈ matchMask, w &&& r.2 = r.1 → ∃ i, decode w = .ok i ∧ rowOf i = r) ∧
  (∀ w : Word, ∀ r ∈ matchMask, ∀ q ∈ matchMask, w &&& r.2 = r.1 → w &&& q.2 = q.1 → r = q)

/-- 30_encoding R115: decoding is total; an unassigned `OP` is `E_OPCODE`, an assigned one with a word outside its row is
`E_FIELD`, and every other word gives the command of its `OP` with the fields `A` and `L`. -/
def Obligations.DecodeIsTotal : Prop :=
  ∀ w : Word,
    if opField w ∉ assignedOpcodes then decode w = .error .opcode
    else if ¬ matchesARow w then decode w = .error .field
    else ∃ i, decode w = .ok i ∧ i.opcode = opField w ∧ i.arg = argField w ∧ i.len = (lenField w).toNat

/-! ## Execution and command errors -/

/-- 60_exceptions R280: a `CMD` write latches the word or is dropped; the engine's step decodes the latched word, runs the
command or records the error, and clears `BUSY`. (The model's own: `freeCtr`, log 4; the list of
turns, log 5; `bootPending`, log 6; `reply`, log 10.) -/
def Obligations.CommandExecution : Prop :=
  (∀ (s : State) (w : Word) (rest : List Turn), HostTurn s (.write .word 0x00000 w) rest →
    ∃ t, step s = .next t ∧
      if s.busy then t = { s with turns := rest, ovr := true, reply := some .done, freeCtr := s.freeCtr + 1 }
      else
        t = { s with turns := rest, cmdLatch := w, busy := true, reply := some .done, freeCtr := s.freeCtr + 1 }) ∧
  (∀ (s : State) (rest : List Turn), EngineTurn s rest → s.busy = true → s.bootPending = false →
    match decode s.cmdLatch with
    | .ok i =>
      step s =
        match exec i { s with turns := rest } with
        | .next t => .next { t with busy := false, freeCtr := t.freeCtr + 1 }
        | .fault r => .fault r
        | .refused r => .refused r
    | .error e =>
      step s = .next { s with
        turns := rest, err := true, errinfo := opField s.cmdLatch ++ codeOf e, busy := false
        freeCtr := s.freeCtr + 1 })

/-- 60_exceptions R282 and R283: a command word that raises an error raises the first in the order of R282, and the step
changes nothing but `ERR`, `ERRINFO` and `BUSY`; a word that raises none leaves `ERR` and `ERRINFO` as they were; the next
`CMD` write is accepted as usual. (The model's own: the counter `freeCtr` moves on, log 4; the engine has the turn when none is
listed, log 5; `bootPending` says that the reset sequence has not ended, log 6.) -/
def Obligations.ErrorsArePreciseAndPrioritised : Prop :=
  ∀ (s : State) (rest : List Turn), EngineTurn s rest → s.busy = true → s.bootPending = false →
    match wordError s.cmdLatch s with
    | some e =>
      ∃ t, step s = .next t ∧
        t = { s with
          turns := rest, err := true, errinfo := opField s.cmdLatch ++ codeOf e, busy := false
          freeCtr := s.freeCtr + 1 } ∧
        ∀ v : Word, (t.access (.write .word 0x00000 v)).cmdLatch = v ∧ (t.access (.write .word 0x00000 v)).busy = true
    | none => ∀ t, step s = .next t → t.err = s.err ∧ t.errinfo = s.errinfo ∧ t.busy = false

/-- 20_memory R84: a command with no error stops with `UninitRead` exactly where a BUF byte it reads has not been written
since reset. (SES_BYTE reads only bytes it wrote itself; that is another statement.) -/
def Obligations.UnwrittenReadsStop : Prop :=
  ∀ (i : Instr) (s : State), (∀ b, i ≠ .sesByte b) →
    (exec i s = .fault .uninitRead ↔
      commandError i s = none ∧ ∃ r ∈ readRanges i s, ∃ k < r.2, s.bufByte (r.1 + k) = none)

/-! ## The cipher engine -/

/-- 40_cipher R140: NOP changes nothing; any other word with `OP` = 0x00 is `E_FIELD`. -/
def Obligations.NopChangesNothing : Prop :=
  (∀ s : State, exec .nop s = .next s) ∧ ReservedBitsRejected 0x00 0xFFFFFFFF 0x00000000

/-- 40_cipher R143, R146: a double-round is the four quarter-rounds of the columns, then the four of the rows; the keystream
block is ten double-rounds, the input added back, every word stored little-endian. -/
def Obligations.BlockIsTenDoubleRounds : Prop :=
  (∀ x : Vector Word 16,
    doubleRound x =
      onFour 15 12 13 14 (onFour 10 11 8 9 (onFour 5 6 7 4 (onFour 0 1 2 3
        (onFour 15 3 7 11 (onFour 10 14 2 6 (onFour 5 9 13 1 (onFour 0 4 8 12 x)))))))) ∧
  ∀ s : Vector Word 16,
    (salsa20Block s).length = 64 ∧
    ∀ (i : Nat) (_ : i < 16) (k : Nat), k < 4 →
      (salsa20Block s).getD (4 * i + k) 0 = ((doubleRound^[10] s)[i] + s[i]).extractLsb' (8 * k) 8

/-- 40_cipher R144: KEYSETUP loads the constant, the key words and a zero counter, leaves words 6 and 7 and everything else,
and sets the stage to Keyed, whatever `PSK_STATUS` and the stage are. -/
def Obligations.KeysetupLoadsTheKey : Prop :=
  (∀ (sel : KeySel) (s : State) (key : List Byte), KeyFits sel s → keyOperand sel s = some key →
    ∃ t, exec (.keysetup sel) s = .next t ∧ t = { s with cs := t.cs, csStage := .keyed } ∧
      t.cs[0] = 0x61707865 ∧ t.cs[5] = 0x3320646E ∧ t.cs[10] = 0x79622D32 ∧ t.cs[15] = 0x6B206574 ∧
      (∀ (i : Nat) (_ : i < 4), t.cs[1 + i] = le32 key (4 * i) ∧ t.cs[11 + i] = le32 key (16 + 4 * i)) ∧
      t.cs[8] = 0 ∧ t.cs[9] = 0 ∧ t.cs[6] = s.cs[6] ∧ t.cs[7] = s.cs[7]) ∧
  (∀ (sel : KeySel) (s : State), ¬ KeyFits sel s → exec (.keysetup sel) s = .next (erred s 0x01 0x06)) ∧
  ReservedBitsRejected 0x01 0xFFFEFFFF 0x01000000

/-- 40_cipher R145: IVSETUP loads the nonce words and a zero counter, leaves everything else, and sets the stage to Ready; it
needs a key set up. -/
def Obligations.IvsetupLoadsTheNonce : Prop :=
  (∀ (sel : NonceSel) (s : State) (nonce : List Byte), s.csStage ≠ .empty → NonceFits sel s.src s →
    nonceOperand sel s.src s = some nonce →
    ∃ t, exec (.ivsetup sel) s = .next t ∧ t = { s with cs := t.cs, csStage := .ready } ∧
      t.cs[6] = le32 nonce 0 ∧ t.cs[7] = le32 nonce 4 ∧ t.cs[8] = 0 ∧ t.cs[9] = 0 ∧
      ∀ (i : Nat) (_ : i < 16), (i < 6 ∨ 9 < i) → t.cs[i] = s.cs[i]) ∧
  (∀ (sel : NonceSel) (s : State), s.csStage = .empty → exec (.ivsetup sel) s = .next (erred s 0x02 0x04)) ∧
  (∀ (sel : NonceSel) (s : State), s.csStage ≠ .empty → ¬ NonceFits sel s.src s →
    exec (.ivsetup sel) s = .next (erred s 0x02 0x06)) ∧
  ReservedBitsRejected 0x02 0xFFFEFFFF 0x02000000

/-- 40_cipher R148: GENBLOCK stores the keystream block of `CS` at `DST` and changes nothing else. -/
def Obligations.GenblockStoresTheBlock : Prop :=
  (∀ s : State, s.csStage = .ready → Fits s s.dst 64 →
    ∃ t, exec .genblock s = .next t ∧ t = { s with buf := t.buf } ∧
      (salsa20Block s.cs).length = 64 ∧ Stored t s.dst.toNat (salsa20Block s.cs) ∧ SameOutside s t s.dst.toNat 64) ∧
  (∀ s : State, s.csStage ≠ .ready → exec .genblock s = .next (erred s 0x03 0x04)) ∧
  (∀ s : State, s.csStage = .ready → ¬ Fits s s.dst 64 → exec .genblock s = .next (erred s 0x03 0x06)) ∧
  ReservedBitsRejected 0x03 0xFFFFFFFF 0x03000000

/-- 40_cipher R149: in `Advance` mode words 9 and 8 count as one 64-bit number modulo 2^64; in `Frozen` mode nothing moves. -/
def Obligations.BlockCounterAdvances : Prop :=
  ∀ x : Vector Word 16,
    ctrAdvance .frozen x = x ∧
    (ctrAdvance .advance x)[9] ++ (ctrAdvance .advance x)[8] = (x[9] ++ x[8] : BitVec 64) + 1 ∧
    ∀ (i : Nat) (_ : i < 16), i ≠ 8 → i ≠ 9 → (ctrAdvance .advance x)[i] = x[i]

/-- 40_cipher R150: XCRYPT stores the input XOR the keystream at `DST`, whatever overlap the ranges have, advances the counter
once a block started, and changes nothing else. -/
def Obligations.XcryptXorsTheKeystream : Prop :=
  (∀ (len : Nat) (s : State) (input : List Byte), s.csStage = .ready → Fits s s.src len → Fits s s.dst len →
    s.bufBytes s.src.toNat len = some input →
    ∃ t out, exec (.xcrypt len) s = .next t ∧
      t = { s with buf := t.buf, cs := afterBlocks s.cfg.ctrMode (blockCount len) s.cs } ∧
      Xored s.cfg.ctrMode s.cs input out ∧ Stored t s.dst.toNat out ∧ SameOutside s t s.dst.toNat len) ∧
  (∀ (len : Nat) (s : State), s.csStage ≠ .ready → exec (.xcrypt len) s = .next (erred s 0x04 0x04)) ∧
  (∀ (len : Nat) (s : State), s.csStage = .ready → ¬ (Fits s s.src len ∧ Fits s s.dst len) →
    exec (.xcrypt len) s = .next (erred s 0x04 0x06)) ∧
  ReservedBitsRejected 0x04 0xFFFF0000 0x04000000

/-- 40_cipher R151: IVSETUP and XCRYPT over a plaintext, then IVSETUP again and XCRYPT over the result, give the plaintext
back, in both counter modes, for every key and nonce, also a nonce in BUF that the first result does not overwrite; in `Frozen`
mode the second IVSETUP is not needed. (`n`, `a`, `b`, `d` are what the host puts into `SRC` and `DST` between the commands.) -/
def Obligations.XcryptTwiceGivesThePlaintext : Prop :=
  ∀ (sel : NonceSel) (s : State) (len : Nat) (pt nonce : List Byte) (n a b d : Half), s.csStage ≠ .empty →
    NonceFits sel n s → nonceOperand sel n s = some nonce →
    (sel = .buf → b.toNat + len ≤ n.toNat ∨ n.toNat + 8 ≤ b.toNat) →
    Fits s a len → Fits s b len → Fits s d len → s.bufBytes a.toNat len = some pt →
    ∃ s1 s2 s3 s4, exec (.ivsetup sel) { s with src := n } = .next s1 ∧
      exec (.xcrypt len) { s1 with src := a, dst := b } = .next s2 ∧
      exec (.ivsetup sel) { s2 with src := n } = .next s3 ∧
      exec (.xcrypt len) { s3 with src := b, dst := d } = .next s4 ∧ s4.bufBytes d.toNat len = some pt ∧
      (s.cfg.ctrMode = .frozen →
        ∃ u, exec (.xcrypt len) { s2 with src := b, dst := d } = .next u ∧ u.bufBytes d.toNat len = some pt)

/-- 40_cipher R152: in `Frozen` mode output bytes 64 apart are XORed with the same keystream byte. -/
def Obligations.FrozenModeReusesTheKeystream : Prop :=
  ∀ (len : Nat) (s : State) (input : List Byte), s.cfg.ctrMode = .frozen → s.csStage = .ready → Fits s s.src len →
    Fits s s.dst len → s.bufBytes s.src.toNat len = some input →
    ∃ t out, exec (.xcrypt len) s = .next t ∧ t.bufBytes s.dst.toNat len = some out ∧
      ∀ p, p + 64 < len → out.getD p 0 ^^^ out.getD (p + 64) 0 = input.getD p 0 ^^^ input.getD (p + 64) 0

/-! ## The key store -/

/-- 41_keystore R171: KS_LOAD. On a marker mismatch `KEY` is kept and the outcome is Invalid; else `KEY` takes the stored
bytes, also when the checksum does not match. -/
def Obligations.KsLoadClassifiesTheRecord : Prop :=
  (∀ s : State, s.nvmByte s.cfg.nvmMarkerAddr ≠ s.cfg.markerValue →
    exec .ksLoad s = .next { s with pskStatus := .invalid, result := 0 }) ∧
  (∀ s : State, s.nvmByte s.cfg.nvmMarkerAddr = s.cfg.markerValue →
    ∃ t, exec .ksLoad s = .next t ∧ t = { s with key := t.key, pskStatus := t.pskStatus, result := t.result } ∧
      (∀ i : Fin 32, t.key[i] = s.nvmByte (s.cfg.nvmKeyAddr + i.val)) ∧
      if xor8 t.key.toList = s.nvmByte (s.cfg.nvmKeyAddr + 32) then t.pskStatus = .valid ∧ t.result = 1
      else t.pskStatus = .error ∧ t.result = 2) ∧
  ReservedBitsRejected 0x10 0xFFFFFFFF 0x10000000

/-- 41_keystore R172: flipping one bit of a stored key byte, or of the stored checksum, of a record that loads as Valid makes
the load Error; a wrong marker makes it Invalid. -/
def Obligations.OneFlippedBitIsDetected : Prop :=
  ∀ (s t : State) (b : Nat), s.cfg.wf → b < 8 → exec .ksLoad s = .next t → t.pskStatus = .valid →
    (∀ k ≤ 32, ∃ u,
      exec .ksLoad (s.nvmWrite (s.cfg.nvmKeyAddr + k)
        (s.nvmByte (s.cfg.nvmKeyAddr + k) ^^^ BitVec.twoPow 8 b)) = .next u ∧ u.pskStatus = .error ∧ u.result = 2) ∧
    (∀ m : Byte, m ≠ s.cfg.markerValue →
      ∃ u, exec .ksLoad (s.nvmWrite s.cfg.nvmMarkerAddr m) = .next u ∧ u.pskStatus = .invalid ∧ u.result = 0)

/-- 41_keystore R173: KS_VERIFY classifies the candidate at `SRC`, the degenerate test first, and writes `RESULT` alone. -/
def Obligations.KsVerifyClassifiesTheCandidate : Prop :=
  (∀ (s : State) (key : List Byte), Fits s s.src 32 → s.bufBytes s.src.toNat 32 = some key →
    exec .ksVerify s = .next { s with
      result :=
        if (∀ b ∈ key, b = 0x00) ∨ (∀ b ∈ key, b = 0xFF) then 0
        else if xor8 key = s.nvmByte (s.cfg.nvmKeyAddr + 32) then 1 else 2 }) ∧
  (∀ s : State, ¬ Fits s s.src 32 → exec .ksVerify s = .next (erred s 0x11 0x06)) ∧
  ReservedBitsRejected 0x11 0xFFFFFFFF 0x11000000

/-- 41_keystore R170, R175: KS_STORE writes the record of `KEY` and logs the 34 writes in order; it needs a Valid key. -/
def Obligations.KsStoreWritesTheRecord : Prop :=
  (∀ s : State, s.cfg.wf → s.pskStatus = .valid →
    ∃ t, exec .ksStore s = .next t ∧
      t = { s with nvm := t.nvm, nvmLog := s.nvmLog ++ storeLog s.cfg s.key } ∧ RecordStored s t s.key) ∧
  (∀ s : State, s.pskStatus ≠ .valid → exec .ksStore s = .next (erred s 0x12 0x03)) ∧
  ReservedBitsRejected 0x12 0xFFFFFFFF 0x12000000

/-- 41_keystore R177: KS_INITDEF installs and stores the default key; it needs `PSK_STATUS` = Invalid. -/
def Obligations.KsInitdefInstallsTheDefault : Prop :=
  (∀ s : State, s.cfg.wf → s.pskStatus = .invalid →
    ∃ t, exec .ksInitdef s = .next t ∧
      t = { s with
        key := s.cfg.defaultPsk, pskStatus := .valid, nvm := t.nvm
        nvmLog := s.nvmLog ++ storeLog s.cfg s.cfg.defaultPsk } ∧
      RecordStored s t s.cfg.defaultPsk) ∧
  (∀ s : State, s.pskStatus ≠ .invalid → exec .ksInitdef s = .next (erred s 0x13 0x03)) ∧
  ReservedBitsRejected 0x13 0xFFFFFFFF 0x13000000

/-- 41_keystore R176: a stored key loads back as Valid. -/
def Obligations.StoreThenLoadIsValid : Prop :=
  ∀ s : State, s.cfg.wf → s.pskStatus = .valid →
    ∃ t u, exec .ksStore s = .next t ∧ exec .ksLoad t = .next u ∧
      u.key = s.key ∧ u.pskStatus = .valid ∧ u.result = 1

/-! ## The nonce -/

/-- 42_nonce R191 and R192: NONCE_INC adds one modulo 2^64, byte 0 least significant, to `NONCE` or to the 8 bytes at `DST`,
and changes nothing else. -/
def Obligations.NonceIncAddsOne : Prop :=
  (∀ s : State, ∃ t, exec (.nonceInc .nonce) s = .next t ∧ t = { s with nonce := t.nonce } ∧
    value t.nonce.toList = (value s.nonce.toList + 1) % 2 ^ 64) ∧
  (∀ (s : State) (n : List Byte), Fits s s.dst 8 → s.bufBytes s.dst.toNat 8 = some n →
    ∃ t m, exec (.nonceInc .buf) s = .next t ∧ t = { s with buf := t.buf } ∧
      m.length = 8 ∧ value m = (value n + 1) % 2 ^ 64 ∧ Stored t s.dst.toNat m ∧ SameOutside s t s.dst.toNat 8) ∧
  (∀ s : State, ¬ Fits s s.dst 8 → exec (.nonceInc .buf) s = .next (erred s 0x20 0x06)) ∧
  ReservedBitsRejected 0x20 0xFFFEFFFF 0x20000000

/-- 42_nonce R193: NONCE_CMP writes `RESULT` by the first byte from index 0 where the operands differ, and nothing else. -/
def Obligations.NonceCmpFindsTheFirstDifference : Prop :=
  (∀ (sel : NonceSel) (s : State) (a b : List Byte), Fits s s.src 8 → NonceFits sel s.dst s →
    s.bufBytes s.src.toNat 8 = some a → nonceOperand sel s.dst s = some b →
    ∃ t, exec (.nonceCmp sel) s = .next t ∧ t = { s with result := t.result } ∧
      (a = b → t.result = 0) ∧ (Greater a b → t.result = 1) ∧ (Greater b a → t.result = 2) ∧
      (a = b ∨ Greater a b ∨ Greater b a)) ∧
  (∀ (sel : NonceSel) (s : State), ¬ (Fits s s.src 8 ∧ NonceFits sel s.dst s) →
    exec (.nonceCmp sel) s = .next (erred s 0x21 0x06)) ∧
  ReservedBitsRejected 0x21 0xFFFEFFFF 0x21000000

/-- 42_nonce R194: `compare` is antisymmetric, is Equal on equal nonces only, and does not look past the first difference. -/
def Obligations.CompareIsAntisymmetric : Prop :=
  (∀ a b : List Byte, a.length = 8 → b.length = 8 →
    (compareBytes a b = .gt ↔ compareBytes b a = .lt) ∧ (compareBytes a b = .eq ↔ a = b)) ∧
  (∀ (p u v u' v' : List Byte) (x y : Byte), x ≠ y →
    compareBytes (p ++ x :: u) (p ++ y :: v) = compareBytes (p ++ x :: u') (p ++ y :: v'))

/-- 42_nonce R195: RESYNC adopts a peer nonce that is Greater and increments it once, else leaves `NONCE`; `RESULT` says which. -/
def Obligations.ResyncAdoptsAGreaterNonce : Prop :=
  (∀ (s : State) (peer : List Byte), Fits s s.src 8 → s.bufBytes s.src.toNat 8 = some peer →
    Greater peer s.nonce.toList →
    ∃ t, exec .resync s = .next t ∧ t = { s with nonce := t.nonce, result := 1 } ∧
      value t.nonce.toList = (value peer + 1) % 2 ^ 64) ∧
  (∀ (s : State) (peer : List Byte), Fits s s.src 8 → s.bufBytes s.src.toNat 8 = some peer →
    ¬ Greater peer s.nonce.toList → exec .resync s = .next { s with result := 0 }) ∧
  (∀ s : State, ¬ Fits s s.src 8 → exec .resync s = .next (erred s 0x22 0x06)) ∧
  ReservedBitsRejected 0x22 0xFFFFFFFF 0x22000000

/-! ## The message codec -/

/-- 43_codec R211: ENCODE writes `NONCE` and the ciphertext under `KEY` and that nonce; `NONCE` is not incremented; `PSK_STATUS`
and the stage before do not matter. -/
def Obligations.EncodeWritesTheEnvelope : Prop :=
  (∀ (len : Nat) (s : State) (pt : List Byte), 8 + len ≤ s.cfg.maxPayload → Fits s s.src len → Fits s s.dst (8 + len) →
    s.bufBytes s.src.toNat len = some pt →
    ∃ t ct, exec (.encode len) s = .next t ∧
      t = { s with
        buf := t.buf
        cs := afterBlocks s.cfg.ctrMode (blockCount len) (messageWords s.key.toList s.nonce.toList)
        csStage := .ready
        result := BitVec.ofNat 32 (8 + len) } ∧
      Xored s.cfg.ctrMode (messageWords s.key.toList s.nonce.toList) pt ct ∧
      Stored t s.dst.toNat (s.nonce.toList ++ ct) ∧ SameOutside s t s.dst.toNat (8 + len)) ∧
  (∀ (len : Nat) (s : State), s.cfg.maxPayload < 8 + len → exec (.encode len) s = .next (erred s 0x30 0x05)) ∧
  (∀ (len : Nat) (s : State), 8 + len ≤ s.cfg.maxPayload → ¬ (Fits s s.src len ∧ Fits s s.dst (8 + len)) →
    exec (.encode len) s = .next (erred s 0x30 0x06)) ∧
  ReservedBitsRejected 0x30 0xFFFF0000 0x30000000

/-- 43_codec R213: DECODE of an envelope writes the plaintext and a NUL; of 8 bytes or fewer it reports TooShort and decrypts
nothing. -/
def Obligations.DecodeWritesThePlaintext : Prop :=
  (∀ (len : Nat) (s : State) (hdr ct : List Byte), 8 < len → len ≤ s.cfg.maxPayload → Fits s s.src len →
    Fits s s.dst (len - 8 + 1) → hdr.length = 8 → s.bufBytes s.src.toNat len = some (hdr ++ ct) →
    ∃ t pt, exec (.decode len) s = .next t ∧
      t = { s with
        buf := t.buf
        cs := afterBlocks s.cfg.ctrMode (blockCount (len - 8)) (messageWords s.key.toList hdr)
        csStage := .ready
        result := BitVec.ofNat 32 (len - 8) <<< 16 } ∧
      Xored s.cfg.ctrMode (messageWords s.key.toList hdr) ct pt ∧
      Stored t s.dst.toNat (pt ++ [0x00]) ∧ SameOutside s t s.dst.toNat (len - 8 + 1)) ∧
  (∀ (len : Nat) (s : State), len ≤ 8 → len ≤ s.cfg.maxPayload → Fits s s.src len →
    exec (.decode len) s = .next { s with result := 0x00000001 }) ∧
  (∀ (len : Nat) (s : State), s.cfg.maxPayload < len → exec (.decode len) s = .next (erred s 0x31 0x05)) ∧
  (∀ (len : Nat) (s : State), len ≤ s.cfg.maxPayload →
    ¬ (Fits s s.src len ∧ (8 < len → Fits s s.dst (len - 8 + 1))) →
    exec (.decode len) s = .next (erred s 0x31 0x06)) ∧
  ReservedBitsRejected 0x31 0xFFFF0000 0x31000000

/-- 43_codec R214, between two engines: the envelope one engine's ENCODE writes, carried into another engine's BUF, is decoded
there to the plaintext and a NUL, if the two hold the same key and counter mode. (Two nodes as two states, and the frame carried
between them by the host, is the model's reading of 60_exceptions R296, log 22.) -/
def Obligations.DecodeUndoesEncode : Prop :=
  ∀ (s r : State) (len : Nat) (pt : List Byte), 0 < len → 8 + len ≤ s.cfg.maxPayload → Fits s s.src len →
    Fits s s.dst (8 + len) → s.bufBytes s.src.toNat len = some pt →
    r.key = s.key → r.cfg.ctrMode = s.cfg.ctrMode → 8 + len ≤ r.cfg.maxPayload → Fits r r.src (8 + len) →
    Fits r r.dst (len + 1) →
    ∃ t env, exec (.encode len) s = .next t ∧ t.bufBytes s.dst.toNat (8 + len) = some env ∧
      (r.bufBytes r.src.toNat (8 + len) = some env →
        ∃ u, exec (.decode (8 + len)) r = .next u ∧ u.bufBytes r.dst.toNat (len + 1) = some (pt ++ [0x00]) ∧
          u.result = BitVec.ofNat 32 len <<< 16)

/-! ## The session controller -/

/-- 44_session R234: SES_BYTE in ModeSelection. -/
def Obligations.ModeSelectionByte : Prop :=
  ∀ (b : Byte) (s : State), s.session = .modeSelection →
    exec (.sesByte b) s = .next
      (if b = 0x31 then
        { s with
          mode := .sender, localAddr := s.cfg.senderAddr, session := .operating
          events := s.events ++ [.setAddr s.cfg.senderAddr, .notice .modeSender] }
      else if b = 0x32 then
        { s with
          mode := .listener, localAddr := s.cfg.listenerAddr, session := .operating
          events := s.events ++ [.setAddr s.cfg.listenerAddr, .notice .statusListening] }
      else if b = 0x0D ∨ b = 0x0A then s
      else { s with events := s.events ++ [.notice .invalidInput] })

/-- 44_session R235, R236, R242: SES_BYTE while Operating, for a mode-switch byte with an empty buffer in any mode, for every
other byte as Listener, and with `MODE` = None. -/
def Obligations.OperatingByteOutsideSender : Prop :=
  ∀ (b : Byte) (s : State), s.session = .operating →
    if (b = 0x4D ∨ b = 0x6D) ∧ s.inlen = 0 then
      exec (.sesByte b) s = .next { s with session := .modeSelection, events := s.events ++ [.notice .promptMode] }
    else
      (s.mode = .listener → exec (.sesByte b) s = .next
        (if b = 0x0D ∨ b = 0x0A then { s with events := s.events ++ [.notice .statusListening] } else s)) ∧
      (s.mode = .none → exec (.sesByte b) s = .next s)

/-- 44_session R237 to R240: SES_BYTE as Sender appends, submits or ignores; a full buffer and a submit flush; a flush aborts,
is suppressed or sends. -/
def Obligations.SenderByteAppendsAndFlushes : Prop :=
  ∀ (b : Byte) (s : State), s.Inv → s.session = .operating → s.mode = .sender →
    ¬ ((b = 0x4D ∨ b = 0x6D) ∧ s.inlen = 0) →
    ∃ t, exec (.sesByte b) s = .next t ∧ SenderByteGives b s t

/-- 44_session R241: "HI" and a carriage return, from an empty buffer, give exactly one send of length 10; the buffer is empty
again and the nonce is one greater. -/
def Obligations.TypingHiSendsOneEnvelope : Prop :=
  ∀ s : State, s.Inv → s.session = .operating → s.mode = .sender → s.inlen = 0 → s.pskStatus = .valid →
    s.sendPending = false → 2 < s.cfg.incap →
    ∃ s1 s2 s3 ct, exec (.sesByte 0x48) s = .next s1 ∧ exec (.sesByte 0x49) s1 = .next s2 ∧
      exec (.sesByte 0x0D) s2 = .next s3 ∧
      s3.events = s.events ++ [.send s.cfg.listenerAddr s.cfg.srcEp s.cfg.dstEp s.cfg.txOptions 10] ∧
      s3.inlen = 0 ∧ s3.txlen = 10 ∧ s3.sendPending = true ∧
      value s3.nonce.toList = (value s.nonce.toList + 1) % 2 ^ 64 ∧
      Xored s.cfg.ctrMode (messageWords s.key.toList s.nonce.toList) [0x48, 0x49] ct ∧
      s3.bufBytes s.cfg.txBase 10 = some (s.nonce.toList ++ ct)

/-- 44_session R251: no byte of input stops the engine or raises an error once the reset sequence has ended, and `SESSION`
never goes back to Initial. (`bootPending` is log 6.) -/
def Obligations.SesByteAlwaysCompletes : Prop :=
  ∀ (b : Byte) (s : State), s.Inv → s.bootPending = false →
    ∃ t, exec (.sesByte b) s = .next t ∧ t.err = s.err ∧ t.errinfo = s.errinfo ∧ t.session ≠ .initial

/-- 44_session R245: SES_RX of a frame that is dropped, is too short or is too long. -/
def Obligations.SesRxWithoutDecryption : Prop :=
  ∀ (len : Nat) (s : State), s.session ≠ .initial →
    if s.cfg.maxPayload < len then exec (.sesRx len) s = .next (erred s 0x41 0x05)
    else if ¬ (s.session = .operating ∧ s.mode = .listener) ∧ s.cfg.rxPolicy = .drop then
      exec (.sesRx len) s = .next { s with result := 0 }
    else len ≤ 8 →
      exec (.sesRx len) s = .next { s with result := 1, events := s.events ++ [.notice .frameTooShort] }

/-- 44_session R245, R246, R247: SES_RX of a frame it takes writes the plaintext and a NUL, displays it sanitised, resyncs to
the frame's nonce and redisplays the status. -/
def Obligations.SesRxDecryptsAndResyncs : Prop :=
  ∀ (len : Nat) (s : State) (hdr ct : List Byte), s.session ≠ .initial → 8 < len → len ≤ s.cfg.maxPayload →
    (s.session = .operating ∧ s.mode = .listener) ∨ s.cfg.rxPolicy = .process →
    hdr.length = 8 → s.bufBytes s.cfg.rxBase len = some (hdr ++ ct) →
    ∃ t pt shown, exec (.sesRx len) s = .next t ∧
      t = { s with
        buf := t.buf
        cs := afterBlocks s.cfg.ctrMode (blockCount (len - 8)) (messageWords s.key.toList hdr)
        csStage := .ready
        ptlen := BitVec.ofNat 16 (len - 8)
        nonce := t.nonce
        result := 1
        events := s.events ++ [.display shown, .notice .statusListening] } ∧
      Xored s.cfg.ctrMode (messageWords s.key.toList hdr) ct pt ∧
      Stored t s.cfg.ptBase (pt ++ [0x00]) ∧ SameOutside s t s.cfg.ptBase (len - 8 + 1) ∧
      shown.length = pt.length ∧
      (∀ i < pt.length, shown.getD i 0 =
        if 0x20 ≤ pt.getD i 0 ∧ pt.getD i 0 ≤ 0x7E then pt.getD i 0 else 0x2E) ∧
      (Greater hdr s.nonce.toList → value t.nonce.toList = (value hdr + 1) % 2 ^ 64) ∧
      (¬ Greater hdr s.nonce.toList → t.nonce = s.nonce)

/-- 44_session R233, R248: SES_CONFIRM ends a pending send and records its outcome; with none pending it changes nothing. -/
def Obligations.SesConfirmEndsThePendingSend : Prop :=
  (∀ (c : Confirmation) (s : State), s.session ≠ .initial →
    exec (.sesConfirm c) s = .next
      (if s.sendPending then { s with sendPending := false, confFail := decide (c = .fail) } else s)) ∧
  (∀ (c : Confirmation) (s : State), s.session = .initial → exec (.sesConfirm c) s = .next (erred s 0x42 0x03)) ∧
  ReservedBitsRejected 0x42 0xFFFEFFFF 0x42000000

/-- 44_session R250: SES_TICK recovers from Operating with `MODE` = None, and else changes nothing. -/
def Obligations.SesTickRecovers : Prop :=
  (∀ s : State, s.session ≠ .initial →
    exec .sesTick s = .next
      (if s.session = .operating ∧ s.mode = .none then
        { s with session := .modeSelection, events := s.events ++ [.notice .promptMode] }
      else s)) ∧
  (∀ s : State, s.session = .initial → exec .sesTick s = .next (erred s 0x43 0x03)) ∧
  ReservedBitsRejected 0x43 0xFFFFFFFF 0x43000000

/-- 44_session R230: the only edges of the session state machine that a command takes. -/
def Obligations.OnlyTheListedSessionEdges : Prop :=
  ∀ (i : Instr) (s t : State), exec i s = .next t →
    t.session = s.session ∨
    (s.session = .modeSelection ∧ t.session = .operating ∧
      ((i = .sesByte 0x31 ∧ t.mode = .sender) ∨ (i = .sesByte 0x32 ∧ t.mode = .listener))) ∨
    (s.session = .operating ∧ t.session = .modeSelection ∧ t.mode = s.mode ∧
      (((i = .sesByte 0x4D ∨ i = .sesByte 0x6D) ∧ s.inlen = 0) ∨ (i = .sesTick ∧ s.mode = .none)))

/-- 44_session R231: a command only appends to the event stream, and each notice only from the commands R231 lists. -/
def Obligations.EventsAreAppendedByTheirCommands : Prop :=
  ∀ (i : Instr) (s t : State), exec i s = .next t →
    ∃ new, t.events = s.events ++ new ∧ ∀ e ∈ new, mayEmit i e

/-- 30_encoding R126 to R129: the words of each event, the ten notices with their codes. -/
def Obligations.EventWords : Prop :=
  (Event.words (.notice .promptMode) = [0x01000001] ∧ Event.words (.notice .invalidInput) = [0x01000002] ∧
    Event.words (.notice .keyInvalid) = [0x01000003] ∧ Event.words (.notice .keyCorrupt) = [0x01000004] ∧
    Event.words (.notice .frameTooShort) = [0x01000005] ∧ Event.words (.notice .sendSuppressed) = [0x01000006] ∧
    Event.words (.notice .inputOverflowFlushed) = [0x01000007] ∧ Event.words (.notice .pskNotValid) = [0x01000008] ∧
    Event.words (.notice .statusListening) = [0x01000009] ∧ Event.words (.notice .modeSender) = [0x0100000A]) ∧
  (∀ addr : Half, Event.words (.setAddr addr) = [0x02000000 ||| addr.setWidth 32]) ∧
  (∀ (dest : Half) (sep dep : Byte) (opt len : Half), Event.words (.send dest sep dep opt len) =
    [0x03000000 ||| len.setWidth 32, (dep.setWidth 32 <<< 24) ||| (sep.setWidth 32 <<< 16) ||| dest.setWidth 32,
     opt.setWidth 32]) ∧
  (∀ text : List Byte, text.length < 2 ^ 16 →
    ∃ extra, Event.words (.display text) = (0x04000000 ||| BitVec.ofNat 32 text.length) :: extra ∧
      extra.length = (text.length + 3) / 4 ∧
      ∀ j < 4 * extra.length, (extra.getD (j / 4) 0).extractLsb' (8 * (j % 4)) 8 = text.getD j 0)

/-! ## What commands leave alone -/

/-- 10_state R46 to R50: no command writes `SRC`, `DST`, `BUSY`, `CMD_LATCH`, `OVR` or the configuration, or clears `ERR`. -/
def Obligations.HostRegistersAreTheHosts : Prop :=
  ∀ (i : Instr) (s t : State), exec i s = .next t →
    t.src = s.src ∧ t.dst = s.dst ∧ t.ovr = s.ovr ∧ t.busy = s.busy ∧ t.cmdLatch = s.cmdLatch ∧ t.cfg = s.cfg ∧
    t.bootPending = s.bootPending ∧ t.turns = s.turns ∧ t.reply = s.reply ∧ t.freeCtr = s.freeCtr ∧
    (s.err = true → t.err = true)

/-- 10_state R32 to R45, R59 and 20_memory R88: the only commands that write each engine register and NVM. -/
def Obligations.OnlyTheListedWriters : Prop :=
  ∀ (i : Instr) (s t : State), exec i s = .next t →
    (i ≠ .ksLoad → i ≠ .ksInitdef → t.key = s.key ∧ t.pskStatus = s.pskStatus) ∧
    (i ≠ .ksStore → i ≠ .ksInitdef → t.nvm = s.nvm ∧ t.nvmLog = s.nvmLog) ∧
    (i ≠ .nonceInc .nonce → i ≠ .resync → (∀ b, i ≠ .sesByte b) → (∀ len, i ≠ .sesRx len) → t.nonce = s.nonce) ∧
    ((∀ b, i ≠ .sesByte b) → t.mode = s.mode ∧ t.localAddr = s.localAddr ∧ t.inlen = s.inlen ∧ t.txlen = s.txlen) ∧
    ((∀ b, i ≠ .sesByte b) → i ≠ .sesTick → t.session = s.session) ∧
    ((∀ len, i ≠ .sesRx len) → t.ptlen = s.ptlen) ∧
    ((∀ b, i ≠ .sesByte b) → (∀ k, i ≠ .sesConfirm k) → t.sendPending = s.sendPending) ∧
    ((∀ k, i ≠ .sesConfirm k) → t.confFail = s.confFail) ∧
    (i ≠ .ksLoad → i ≠ .ksVerify → (∀ sel, i ≠ .nonceCmp sel) → i ≠ .resync → (∀ len, i ≠ .encode len) →
      (∀ len, i ≠ .decode len) → (∀ len, i ≠ .sesRx len) → t.result = s.result) ∧
    ((∀ sel, i ≠ .keysetup sel) → (∀ sel, i ≠ .ivsetup sel) → (∀ len, i ≠ .encode len) → (∀ len, i ≠ .decode len) →
      (∀ b, i ≠ .sesByte b) → (∀ len, i ≠ .sesRx len) →
      t.csStage = s.csStage ∧ ((∀ len, i ≠ .xcrypt len) → t.cs = s.cs))

/-- 20_memory R83, R85: a command changes no BUF byte outside the ranges it stores to; a command that stores nothing changes
none. -/
def Obligations.OnlyTheStoredRangesChange : Prop :=
  ∀ (i : Instr) (s t : State), exec i s = .next t →
    ∀ a, (∀ r ∈ storedRanges i s, a < r.1 ∨ r.1 + r.2 ≤ a) → t.bufByte a = s.bufByte a

/-- 70_reset R323, R324: a pending send stays pending, and `TXLEN` stays, under every command but SES_CONFIRM; SES_BYTE then
leaves `NONCE` and every BUF byte but the one it appends; no session command overwrites the TX region, which holds the envelope.
(A primitive command may overwrite it, and NONCE_INC, RESYNC and SES_RX may move `NONCE`: R323, 10_state R34.) -/
def Obligations.PendingSendIsKept : Prop :=
  ∀ (i : Instr) (s t : State), s.sendPending = true → exec i s = .next t → (∀ k, i ≠ .sesConfirm k) →
    t.sendPending = true ∧ t.txlen = s.txlen ∧
    (∀ b, i = .sesByte b → t.nonce = s.nonce ∧
      ∀ a, a ≠ s.cfg.inBase + s.inlen.toNat → t.bufByte a = s.bufByte a) ∧
    (s.Inv → ((∃ b, i = .sesByte b) ∨ (∃ len, i = .sesRx len) ∨ i = .sesTick) →
      ∀ a, s.cfg.txBase ≤ a → a < s.cfg.rxBase → t.bufByte a = s.bufByte a)

/-! ## The host interface -/

/-- 10_state R53: the fields of `STATUS`, and a write to it, which is accepted also while `BUSY` = 1. -/
def Obligations.StatusRegister : Prop :=
  (∀ s : State, s.readReply .word 0x00004 = .word s.statusWord ∧
    s.statusWord.extractLsb' 0 1 = BitVec.ofBool s.busy ∧ s.statusWord.extractLsb' 1 1 = BitVec.ofBool s.err ∧
    s.statusWord.extractLsb' 2 1 = BitVec.ofBool s.ovr ∧ s.statusWord.extractLsb' 3 1 = 0 ∧
    s.statusWord.extractLsb' 4 2 = (match s.pskStatus with | .invalid => 0 | .valid => 1 | .error => 2) ∧
    s.statusWord.extractLsb' 6 2 = (match s.csStage with | .empty => 0 | .keyed => 1 | .ready => 2) ∧
    s.statusWord.extractLsb' 8 2 = (match s.session with | .initial => 0 | .modeSelection => 1 | .operating => 2) ∧
    s.statusWord.extractLsb' 10 2 = (match s.mode with | .none => 0 | .sender => 1 | .listener => 2) ∧
    s.statusWord.extractLsb' 12 1 = BitVec.ofBool s.sendPending ∧
    s.statusWord.extractLsb' 13 1 = BitVec.ofBool s.confFail ∧ s.statusWord.extractLsb' 14 18 = 0) ∧
  (∀ (s : State) (v : Word), s.writeEffect .word 0x00004 v =
    { s with
      err := if v.getLsbD 1 then false else s.err
      ovr := if v.getLsbD 2 then false else s.ovr })

/-- 10_state R52, R54 and R55, the registers other than `CMD` and `STATUS`: what each reads as while idle; a write to `SRC` or
`DST` while idle; every register address above `DST` ignores writes at any time; a reserved address reads zero at any time.
(That it does so while `BUSY` = 1 too is the model's choice, log 11.) -/
def Obligations.RegisterMapReads : Prop :=
  (∀ s : State, s.busy = false →
    s.readReply .word 0x00000 = .word 0 ∧ s.readReply .word 0x00008 = .word (s.src.setWidth 32) ∧
    s.readReply .word 0x0000C = .word (s.dst.setWidth 32) ∧ s.readReply .word 0x00010 = .word s.result ∧
    s.readReply .word 0x00014 = .word (s.errinfo.setWidth 32) ∧
    s.readReply .word 0x00018 = .word (s.inlen.setWidth 32) ∧ s.readReply .word 0x0001C = .word (s.txlen.setWidth 32) ∧
    s.readReply .word 0x00020 = .word (s.ptlen.setWidth 32) ∧
    s.readReply .word 0x00024 = .word (s.localAddr.setWidth 32) ∧
    s.readReply .word 0x00028 = .word (le32 s.nonce.toList 0) ∧
    s.readReply .word 0x0002C = .word (le32 s.nonce.toList 4) ∧
    s.readReply .word 0x00030 = .word (BitVec.ofNat 32 (s.cfg.maxPayload % 2 ^ 16 + s.cfg.incap % 2 ^ 16 * 2 ^ 16)) ∧
    s.readReply .word 0x00034 = .word ((if s.cfg.ctrMode = .advance then 1 else 0) +
      (if s.cfg.emptyFlush = .send then 2 else 0) + (if s.cfg.rxPolicy = .process then 4 else 0))) ∧
  (∀ (s : State) (a : BitVec 17), 0x38 ≤ a.toNat → a.toNat < 0x10000 → a.toNat % 4 = 0 →
    s.readReply .word a = .word 0) ∧
  (∀ (s : State) (v : Word), s.busy = false →
    s.writeEffect .word 0x00008 v = { s with src := v.extractLsb' 0 16 } ∧
    s.writeEffect .word 0x0000C v = { s with dst := v.extractLsb' 0 16 }) ∧
  (∀ (s : State) (width : Width) (a : BitVec 17) (v : Word), 0x0000F < a.toNat → a.toNat < 0x10000 →
    s.writeEffect width a v = s)

/-- 20_memory R90, R91: the BUF window while idle, bytes and little-endian words; past `BUF_SIZE` it reads zero and ignores
writes. (The model's choices: that it does so while `BUSY` = 1 too, without `OVR`, logs 11, 12; that a narrow write takes the
low bits of its value, log 18.) -/
def Obligations.BufWindow : Prop :=
  (∀ (s : State) (a : BitVec 17) (k : Nat), s.busy = false → a.toNat = 0x10000 + k → k < s.cfg.bufSize →
    (∀ v, s.bufByte k = some v → s.readReply .byte a = .byte v) ∧
    ∀ w : Word, ∃ t, s.writeEffect .byte a w = t ∧ t = { s with buf := t.buf } ∧
      t.bufByte k = some (w.setWidth 8) ∧ SameOutside s t k 1) ∧
  (∀ (s : State) (a : BitVec 17) (k : Nat), s.busy = false → a.toNat = 0x10000 + k → k % 4 = 0 → k < s.cfg.bufSize →
    (∀ v0 v1 v2 v3 : Byte, s.bufBytes k 4 = some [v0, v1, v2, v3] →
      s.readReply .word a = .word (v3 ++ v2 ++ v1 ++ v0)) ∧
    ∀ v0 v1 v2 v3 : Byte, ∃ t, s.writeEffect .word a (v3 ++ v2 ++ v1 ++ v0) = t ∧ t = { s with buf := t.buf } ∧
      Stored t k [v0, v1, v2, v3] ∧ SameOutside s t k 4) ∧
  (∀ (s : State) (a : BitVec 17), 0x10000 + s.cfg.bufSize ≤ a.toNat →
    s.readReply .byte a = .byte 0 ∧ (a.toNat % 4 = 0 → s.readReply .word a = .word 0) ∧
    ∀ width v, s.writeEffect width a v = s)

/-- 20_memory R91, 60_exceptions R284: an access of another width or alignment gets a bus error and changes no engine state. -/
def Obligations.BusErrorsChangeNothing : Prop :=
  ∀ (s : State) (width : Width) (a : BitVec 17) (v : Word),
    width = .half ∨ (width = .byte ∧ a.toNat < 0x10000) ∨ (width = .word ∧ a.toNat % 4 ≠ 0) →
    s.readReply width a = .busError ∧ writeReply width a = .busError ∧ s.writeEffect width a v = s

/-- 20_memory R93: while `BUSY` = 1 a write to `CMD`, `SRC`, `DST` or BUF is dropped and sets `OVR`; a write to any other
register but `STATUS`, or to a reserved address, changes nothing. (That a write to the window at or past `BUF_SIZE` counts as one
to a reserved address, 10_state R55, and so sets no `OVR` is the model's choice between R55 and R93's words, log 12.) -/
def Obligations.WritesWhileBusyAreDropped : Prop :=
  ∀ (s : State) (v : Word), s.busy = true →
    s.writeEffect .word 0x00000 v = { s with ovr := true } ∧ s.writeEffect .word 0x00008 v = { s with ovr := true } ∧
    s.writeEffect .word 0x0000C v = { s with ovr := true } ∧
    (∀ (a : BitVec 17) (k : Nat), a.toNat = 0x10000 + k → k < s.cfg.bufSize →
      s.writeEffect .byte a v = { s with ovr := true } ∧
      (k % 4 = 0 → s.writeEffect .word a v = { s with ovr := true })) ∧
    (∀ (width : Width) (a : BitVec 17), 0x0000F < a.toNat → a.toNat < 0x10000 → s.writeEffect width a v = s) ∧
    (∀ (width : Width) (a : BitVec 17), 0x10000 + s.cfg.bufSize ≤ a.toNat → s.writeEffect width a v = s)

/-- 20_memory R95: a read changes no state of the engine (`reply` and `freeCtr` are the model's own, logs 10, 4), and while idle
no read changes what another read returns. -/
def Obligations.ReadsHaveNoSideEffect : Prop :=
  ∀ (s : State) (width : Width) (a : BitVec 17),
    (∃ r c, s.access (.read width a) = { s with reply := some r, freeCtr := c }) ∧
    (s.busy = false → ∀ (w : Width) (b : BitVec 17),
      (s.access (.read w b)).readReply width a = s.readReply width a)

/-- 30_encoding R132: `DO <command>` on an idle engine issues the command word, runs the command and ends with a read of
`STATUS` that sees `BUSY` = 0. (What `WAIT` is as turns is logs 17, 25; the
model's own `freeCtr` and `reply`, logs 4, 10.) -/
def Obligations.DoRunsTheCommand : Prop :=
  ∀ (s t : State) (i : Instr) (rest : List Turn), s.cfg.wf → s.busy = false → i.wellFormed = true →
    s.turns = (doCommand i).flatMap HostAction.turns ++ rest → s.bootPending = false →
    exec i { s with
      cmdLatch := encode i, busy := true, reply := some .done, freeCtr := s.freeCtr + 1
      turns := .host (.read .word 0x00004) :: rest } = .next t →
    ∃ v : Word, v.getLsbD 0 = false ∧
      StepsTo 5 s { t with busy := false, freeCtr := t.freeCtr + 1, reply := some (.word v), turns := rest }

/-- 10_state R32, R35, R60, 60_exceptions R291: what a host access does and answers does not depend on `KEY`, `CS` or NVM, and
no host access changes them. -/
def Obligations.SecretsHaveNoHostAddress : Prop :=
  ∀ (s : State) (a : Access) (key : Vector Byte 32) (cs : Vector Word 16) (nvm log : List Host.Cell),
    State.access a { s with key := key, cs := cs, nvm := nvm, nvmLog := log } =
      { s.access a with key := key, cs := cs, nvm := nvm, nvmLog := log } ∧
    (s.access a).key = s.key ∧ (s.access a).cs = s.cs ∧ (s.access a).nvm = s.nvm ∧ (s.access a).nvmLog = s.nvmLog

/-! ## Reset -/

/-- 70_reset R310, R312, R314: the reset input puts every register at its reset value and leaves no BUF byte written; NVM and
the delivered events stay. (That `bootPending` says the reset sequence is to run is log 6; that
`cfg` stays, log 19.) -/
def Obligations.ResetValues : Prop :=
  ∀ (s : State) (rest : List Turn), s.cfg.wf → s.turns = .reset :: rest →
    ∃ t, step s = .next t ∧
      t.key = Vector.replicate 32 0 ∧ t.pskStatus = .invalid ∧ t.nonce = Vector.replicate 8 0 ∧
      t.cs = Vector.replicate 16 0 ∧ t.csStage = .empty ∧ t.session = .initial ∧ t.mode = .none ∧ t.localAddr = 0 ∧
      t.inlen = 0 ∧ t.txlen = 0 ∧ t.ptlen = 0 ∧ t.sendPending = false ∧ t.confFail = false ∧ t.result = 0 ∧
      t.src = 0 ∧ t.dst = 0 ∧ t.busy = true ∧ t.cmdLatch = 0 ∧ t.err = false ∧ t.ovr = false ∧ t.errinfo = 0 ∧
      (∀ a, t.bufByte a = none) ∧ t.nvm = s.nvm ∧ t.events = s.events ∧ t.cfg = s.cfg ∧ t.bootPending = true

/-- 70_reset R311: the reset sequence, for each of the three outcomes of the load. (The model's own: the counter `freeCtr`
moves on, log 4; the engine has the turn when none is listed, log 5; `bootPending`, log 6.) -/
def Obligations.ResetSequence : Prop :=
  ∀ (s : State) (rest : List Turn), EngineTurn s rest → s.busy = true → s.bootPending = true →
    ∃ t, step s = .next t ∧
      t = { s with
        key := t.key, pskStatus := t.pskStatus, result := t.result, nvm := t.nvm, nvmLog := t.nvmLog
        events := t.events, session := .modeSelection, busy := false, bootPending := false, turns := rest
        freeCtr := s.freeCtr + 1 } ∧
      if s.nvmByte s.cfg.nvmMarkerAddr ≠ s.cfg.markerValue then
        t.key = s.cfg.defaultPsk ∧ t.pskStatus = .valid ∧ t.result = 0 ∧ RecordStored s t s.cfg.defaultPsk ∧
        t.nvmLog = s.nvmLog ++ storeLog s.cfg s.cfg.defaultPsk ∧
        t.events = s.events ++ [.notice .keyInvalid, .notice .promptMode]
      else
        (∀ i : Fin 32, t.key[i] = s.nvmByte (s.cfg.nvmKeyAddr + i.val)) ∧ t.nvm = s.nvm ∧ t.nvmLog = s.nvmLog ∧
        if xor8 t.key.toList = s.nvmByte (s.cfg.nvmKeyAddr + 32) then
          t.pskStatus = .valid ∧ t.result = 1 ∧ t.events = s.events ++ [.notice .promptMode]
        else
          t.pskStatus = .error ∧ t.result = 2 ∧ t.events = s.events ++ [.notice .keyCorrupt, .notice .promptMode]

/-! ## Invariants -/

/-- Every power-on state has the invariant, for every admissible configuration and NVM image; so has the machine after reset.
(The configuration and the NVM image of `State.reset` are the model's choice, logs 1, 2.) -/
def Obligations.ResetHasTheInvariant : Prop :=
  (∀ (cfg : Config) (nvm : List Host.Cell), cfg.wf → Memory.wf cfg.nvmSize Memory.nvmBlank nvm →
    (State.powerOn cfg nvm).Inv) ∧
  State.reset.Inv

/-- Every step of the machine keeps the invariant: a command, the reset sequence, a host access, a reset. (The turns are
log 5; `bootPending`, which the invariant speaks of, is log 6.) -/
def Obligations.StepKeepsTheInvariant : Prop := ∀ s t : State, s.Inv → step s = .next t → t.Inv

/-- 70_reset R327: once a corrupt record is found, every step of the machine, a reset and a host access included, leaves the
record corrupt and `PSK_STATUS` Error again whenever the reset sequence has ended. (The turns are log 5, `bootPending`
log 6.) -/
def Obligations.CorruptKeyIsPermanent : Prop :=
  ∀ s t : State, s.Inv → CorruptRecord s → (s.bootPending = false → s.pskStatus = .error) → step s = .next t →
    CorruptRecord t ∧ (t.bootPending = false → t.pskStatus = .error)
end

