-- ==== Sys2Proof/Laws/Memory.lean ====
section
/-! SUPPORT. What a byte memory reads as after a write, and that every memory operation keeps the canonical form. -/

namespace Sys2Proof.Machine

variable {blank : Option Byte} {size : Nat} {m : List Host.Cell}

theorem Memory.lookup_insert (m : List Host.Cell) (a : Nat) (v : Byte) (b : Nat) :
    Memory.lookup (Memory.insert m a v) b = if b = a then some v else Memory.lookup m b := by
  induction m with
  | nil => simp [Memory.insert, Memory.lookup]
  | cons c m ih =>
    obtain ⟨k, w⟩ := c
    simp only [Memory.insert]
    split
    · simp [Memory.lookup]
    · split
      · subst_vars; simp only [Memory.lookup]; split <;> simp_all
      · simp only [Memory.lookup, ih]; split
        · split <;> simp_all
        · rfl

theorem Memory.lookup_erase (m : List Host.Cell) (a b : Nat) :
    Memory.lookup (Memory.erase m a) b = if b = a then none else Memory.lookup m b := by
  induction m with
  | nil => simp [Memory.erase, Memory.lookup]
  | cons c m ih =>
    obtain ⟨k, w⟩ := c
    simp only [Memory.erase]
    split
    · subst_vars; simp only [ih, Memory.lookup]; split <;> simp_all
    · simp only [Memory.lookup, ih]; split
      · split <;> simp_all
      · rfl

/-- A read after a write of one byte. -/
theorem Memory.read_write (m : List Host.Cell) (a : Nat) (v : Byte) (b : Nat) :
    Memory.read blank (Memory.write blank m a v) b = if b = a then some v else Memory.read blank m b := by
  unfold Memory.write Memory.read
  by_cases h : some v = blank
  · rw [if_pos h, Memory.lookup_erase]; by_cases hb : b = a <;> simp [hb, h]
  · rw [if_neg h, Memory.lookup_insert]; by_cases hb : b = a <;> simp [hb]

/-- A read after a write of several bytes: the byte stored there, else what was read before. -/
theorem Memory.read_writeBytes (bs : List Byte) (m : List Host.Cell) (a b : Nat) :
    Memory.read blank (Memory.writeBytes blank m a bs) b =
      if a ≤ b ∧ b < a + bs.length then bs[b - a]? else Memory.read blank m b := by
  induction bs generalizing m a with
  | nil => simp only [Memory.writeBytes, List.length_nil]; split <;> first | omega | rfl
  | cons v vs ih =>
    simp only [Memory.writeBytes, ih, Memory.read_write, List.length_cons]
    by_cases h1 : a + 1 ≤ b ∧ b < a + 1 + vs.length
    · obtain ⟨k, rfl⟩ : ∃ k, b = a + 1 + k := ⟨b - (a + 1), by omega⟩
      rw [if_pos h1, if_pos (by omega)]
      have e1 : a + 1 + k - (a + 1) = k := by omega
      have e2 : a + 1 + k - a = k + 1 := by omega
      simp [e1, e2]
    · rw [if_neg h1]
      by_cases h2 : b = a
      · subst h2; simp
      · rw [if_neg h2, if_neg (by omega)]

theorem Memory.read_writeBytes_outside {bs : List Byte} {m : List Host.Cell} {a b : Nat}
    (h : b < a ∨ a + bs.length ≤ b) :
    Memory.read blank (Memory.writeBytes blank m a bs) b = Memory.read blank m b := by
  rw [Memory.read_writeBytes, if_neg (by omega)]

/-- `readBytes` answers exactly where every byte of the range reads. -/
theorem Memory.readBytes_eq_some {a n : Nat} {vs : List Byte} :
    Memory.readBytes blank m a n = some vs ↔
      vs.length = n ∧ ∀ i < n, Memory.read blank m (a + i) = vs[i]? := by
  induction n generalizing a vs with
  | zero => cases vs <;> simp [Memory.readBytes]
  | succ n ih =>
    simp only [Memory.readBytes]
    constructor
    · intro h
      split at h
      · next v ws h1 h2 =>
        obtain rfl := Option.some.inj h
        obtain ⟨hl, hr⟩ := ih.mp h2
        refine ⟨by simp [hl], fun i hi => ?_⟩
        cases i with
        | zero => simpa using h1
        | succ i =>
          have := hr i (by omega)
          rw [show a + (i + 1) = a + 1 + i by omega, this]
          simp
      · simp at h
    · rintro ⟨hl, hr⟩
      cases vs with
      | nil => simp at hl
      | cons v ws =>
        have h0 := hr 0 (by omega)
        have h1 : Memory.readBytes blank m (a + 1) n = some ws := by
          refine ih.mpr ⟨by simpa using hl, fun i hi => ?_⟩
          have := hr (i + 1) (by omega)
          rw [show a + 1 + i = a + (i + 1) by omega, this]
          simp
        simp only [Nat.add_zero, List.getElem?_cons_zero] at h0
        rw [h0, h1]

theorem Memory.readBytes_length {a n : Nat} {vs : List Byte} (h : Memory.readBytes blank m a n = some vs) :
    vs.length = n :=
  (Memory.readBytes_eq_some.mp h).1

/-- Two memories that read the same over a range give the same bytes. -/
theorem Memory.readBytes_congr {m' : List Host.Cell} {a n : Nat}
    (h : ∀ i < n, Memory.read blank m' (a + i) = Memory.read blank m (a + i)) :
    Memory.readBytes blank m' a n = Memory.readBytes blank m a n := by
  induction n generalizing a with
  | zero => rfl
  | succ n ih =>
    have h0 := h 0 (by omega)
    have hs : Memory.readBytes blank m' (a + 1) n = Memory.readBytes blank m (a + 1) n :=
      ih fun i hi => by simpa [Nat.add_comm, Nat.add_left_comm] using h (i + 1) (by omega)
    simp only [Nat.add_zero] at h0
    simp only [Memory.readBytes, h0, hs]

/-- Reading a range just written gives the bytes written. -/
theorem Memory.readBytes_writeBytes (m : List Host.Cell) (a : Nat) (bs : List Byte) :
    Memory.readBytes blank (Memory.writeBytes blank m a bs) a bs.length = some bs := by
  refine Memory.readBytes_eq_some.mpr ⟨rfl, fun i hi => ?_⟩
  rw [Memory.read_writeBytes, if_pos (by omega), show a + i - a = i by omega]

theorem Memory.readBytes_isSome {a n : Nat}
    (h : ∀ i < n, (Memory.read blank m (a + i)).isSome) :
    ∃ vs, Memory.readBytes blank m a n = some vs := by
  induction n generalizing a with
  | zero => exact ⟨[], rfl⟩
  | succ n ih =>
    obtain ⟨vs, hvs⟩ := ih (a := a + 1) fun i hi => by
      simpa [Nat.add_comm, Nat.add_left_comm] using h (i + 1) (by omega)
    obtain ⟨v, hv⟩ := Option.isSome_iff_exists.mp (h 0 (by omega))
    exact ⟨v :: vs, by simp only [Nat.add_zero] at hv; simp [Memory.readBytes, hv, hvs]⟩

theorem Memory.mem_insert {c : Host.Cell} {a : Nat} {v : Byte} (h : c ∈ Memory.insert m a v) :
    c = (a, v) ∨ c ∈ m := by
  induction m with
  | nil => simpa [Memory.insert] using h
  | cons d m ih =>
    obtain ⟨k, w⟩ := d
    simp only [Memory.insert] at h
    split at h
    · simpa using h
    · split at h
      · simp only [List.mem_cons] at h ⊢; tauto
      · simp only [List.mem_cons] at h ⊢
        rcases h with h | h
        · tauto
        · rcases ih h with h | h <;> tauto

theorem Memory.mem_erase {c : Host.Cell} {a : Nat} (h : c ∈ Memory.erase m a) : c ∈ m := by
  induction m with
  | nil => simp [Memory.erase] at h
  | cons d m ih =>
    obtain ⟨k, w⟩ := d
    simp only [Memory.erase] at h
    split at h
    · exact List.mem_cons_of_mem _ (ih h)
    · simp only [List.mem_cons] at h ⊢
      exact h.imp id ih

theorem Memory.insert_sorted {a : Nat} {v : Byte} (h : m.Pairwise fun x y => x.1 < y.1) :
    (Memory.insert m a v).Pairwise fun x y => x.1 < y.1 := by
  induction m with
  | nil => simp [Memory.insert]
  | cons d m ih =>
    obtain ⟨k, w⟩ := d
    rw [List.pairwise_cons] at h
    simp only [Memory.insert]
    split
    · refine List.pairwise_cons.mpr ⟨fun y hy => ?_, List.pairwise_cons.mpr h⟩
      rcases List.mem_cons.mp hy with rfl | hy
      · assumption
      · have := h.1 y hy; simp only at this ⊢; omega
    · split
      · subst_vars; exact List.pairwise_cons.mpr h
      · refine List.pairwise_cons.mpr ⟨fun y hy => ?_, ih h.2⟩
        rcases Memory.mem_insert hy with rfl | hy
        · simp only; omega
        · exact h.1 y hy

theorem Memory.erase_sorted {a : Nat} (h : m.Pairwise fun x y => x.1 < y.1) :
    (Memory.erase m a).Pairwise fun x y => x.1 < y.1 := by
  induction m with
  | nil => simp [Memory.erase]
  | cons d m ih =>
    obtain ⟨k, w⟩ := d
    rw [List.pairwise_cons] at h
    simp only [Memory.erase]
    split
    · exact ih h.2
    · exact List.pairwise_cons.mpr ⟨fun y hy => h.1 y (Memory.mem_erase hy), ih h.2⟩

/-- A write inside the memory keeps the canonical form. -/
theorem Memory.write_wf {a : Nat} {v : Byte} (h : Memory.wf size blank m) (ha : a < size) :
    Memory.wf size blank (Memory.write blank m a v) := by
  unfold Memory.write
  split
  · exact ⟨Memory.erase_sorted h.1, fun c hc => h.2 c (Memory.mem_erase hc)⟩
  · next hv =>
    refine ⟨Memory.insert_sorted h.1, fun c hc => ?_⟩
    rcases Memory.mem_insert hc with rfl | hc
    · exact ⟨ha, hv⟩
    · exact h.2 c hc

/-- A write of several bytes inside the memory keeps the canonical form. -/
theorem Memory.writeBytes_wf {a : Nat} {bs : List Byte} (h : Memory.wf size blank m) (ha : a + bs.length ≤ size) :
    Memory.wf size blank (Memory.writeBytes blank m a bs) := by
  induction bs generalizing m a with
  | nil => exact h
  | cons v vs ih =>
    simp only [List.length_cons] at ha
    exact ih (Memory.write_wf h (by omega)) (by omega)

theorem Memory.nil_wf : Memory.wf size blank [] := ⟨List.Pairwise.nil, by simp⟩

end Sys2Proof.Machine
end

