-- ==== Sys2Proof/Laws/State.lean ====
section
/-! SUPPORT. One lemma per field for each named update of State, so that no proof unfolds an update. -/

namespace Sys2Proof.Machine

/-! Taking a command error (60_exceptions R283). -/

section
variable (s : State) (op : Byte) (e : CmdErr)
@[simp] theorem State.takeError_cfg : (s.takeError op e).cfg = s.cfg := rfl
@[simp] theorem State.takeError_key : (s.takeError op e).key = s.key := rfl
@[simp] theorem State.takeError_pskStatus : (s.takeError op e).pskStatus = s.pskStatus := rfl
@[simp] theorem State.takeError_nonce : (s.takeError op e).nonce = s.nonce := rfl
@[simp] theorem State.takeError_cs : (s.takeError op e).cs = s.cs := rfl
@[simp] theorem State.takeError_csStage : (s.takeError op e).csStage = s.csStage := rfl
@[simp] theorem State.takeError_session : (s.takeError op e).session = s.session := rfl
@[simp] theorem State.takeError_mode : (s.takeError op e).mode = s.mode := rfl
@[simp] theorem State.takeError_localAddr : (s.takeError op e).localAddr = s.localAddr := rfl
@[simp] theorem State.takeError_inlen : (s.takeError op e).inlen = s.inlen := rfl
@[simp] theorem State.takeError_txlen : (s.takeError op e).txlen = s.txlen := rfl
@[simp] theorem State.takeError_ptlen : (s.takeError op e).ptlen = s.ptlen := rfl
@[simp] theorem State.takeError_sendPending : (s.takeError op e).sendPending = s.sendPending := rfl
@[simp] theorem State.takeError_confFail : (s.takeError op e).confFail = s.confFail := rfl
@[simp] theorem State.takeError_result : (s.takeError op e).result = s.result := rfl
@[simp] theorem State.takeError_src : (s.takeError op e).src = s.src := rfl
@[simp] theorem State.takeError_dst : (s.takeError op e).dst = s.dst := rfl
@[simp] theorem State.takeError_busy : (s.takeError op e).busy = s.busy := rfl
@[simp] theorem State.takeError_cmdLatch : (s.takeError op e).cmdLatch = s.cmdLatch := rfl
@[simp] theorem State.takeError_err : (s.takeError op e).err = true := rfl
@[simp] theorem State.takeError_ovr : (s.takeError op e).ovr = s.ovr := rfl
@[simp] theorem State.takeError_errinfo : (s.takeError op e).errinfo = errinfoOf op e := rfl
@[simp] theorem State.takeError_buf : (s.takeError op e).buf = s.buf := rfl
@[simp] theorem State.takeError_nvm : (s.takeError op e).nvm = s.nvm := rfl
@[simp] theorem State.takeError_nvmLog : (s.takeError op e).nvmLog = s.nvmLog := rfl
@[simp] theorem State.takeError_events : (s.takeError op e).events = s.events := rfl
@[simp] theorem State.takeError_bootPending : (s.takeError op e).bootPending = s.bootPending := rfl
@[simp] theorem State.takeError_turns : (s.takeError op e).turns = s.turns := rfl
@[simp] theorem State.takeError_reply : (s.takeError op e).reply = s.reply := rfl
@[simp] theorem State.takeError_freeCtr : (s.takeError op e).freeCtr = s.freeCtr := rfl
end

/-! A write of `STATUS` (10_state R53). -/

section
variable (s : State) (v : Word)
@[simp] theorem State.clearFlags_cfg : (s.clearFlags v).cfg = s.cfg := rfl
@[simp] theorem State.clearFlags_key : (s.clearFlags v).key = s.key := rfl
@[simp] theorem State.clearFlags_pskStatus : (s.clearFlags v).pskStatus = s.pskStatus := rfl
@[simp] theorem State.clearFlags_nonce : (s.clearFlags v).nonce = s.nonce := rfl
@[simp] theorem State.clearFlags_cs : (s.clearFlags v).cs = s.cs := rfl
@[simp] theorem State.clearFlags_csStage : (s.clearFlags v).csStage = s.csStage := rfl
@[simp] theorem State.clearFlags_session : (s.clearFlags v).session = s.session := rfl
@[simp] theorem State.clearFlags_mode : (s.clearFlags v).mode = s.mode := rfl
@[simp] theorem State.clearFlags_localAddr : (s.clearFlags v).localAddr = s.localAddr := rfl
@[simp] theorem State.clearFlags_inlen : (s.clearFlags v).inlen = s.inlen := rfl
@[simp] theorem State.clearFlags_txlen : (s.clearFlags v).txlen = s.txlen := rfl
@[simp] theorem State.clearFlags_ptlen : (s.clearFlags v).ptlen = s.ptlen := rfl
@[simp] theorem State.clearFlags_sendPending : (s.clearFlags v).sendPending = s.sendPending := rfl
@[simp] theorem State.clearFlags_confFail : (s.clearFlags v).confFail = s.confFail := rfl
@[simp] theorem State.clearFlags_result : (s.clearFlags v).result = s.result := rfl
@[simp] theorem State.clearFlags_src : (s.clearFlags v).src = s.src := rfl
@[simp] theorem State.clearFlags_dst : (s.clearFlags v).dst = s.dst := rfl
@[simp] theorem State.clearFlags_busy : (s.clearFlags v).busy = s.busy := rfl
@[simp] theorem State.clearFlags_cmdLatch : (s.clearFlags v).cmdLatch = s.cmdLatch := rfl
@[simp] theorem State.clearFlags_err : (s.clearFlags v).err = (s.err && !v.getLsbD 1) := rfl
@[simp] theorem State.clearFlags_ovr : (s.clearFlags v).ovr = (s.ovr && !v.getLsbD 2) := rfl
@[simp] theorem State.clearFlags_errinfo : (s.clearFlags v).errinfo = s.errinfo := rfl
@[simp] theorem State.clearFlags_buf : (s.clearFlags v).buf = s.buf := rfl
@[simp] theorem State.clearFlags_nvm : (s.clearFlags v).nvm = s.nvm := rfl
@[simp] theorem State.clearFlags_nvmLog : (s.clearFlags v).nvmLog = s.nvmLog := rfl
@[simp] theorem State.clearFlags_events : (s.clearFlags v).events = s.events := rfl
@[simp] theorem State.clearFlags_bootPending : (s.clearFlags v).bootPending = s.bootPending := rfl
@[simp] theorem State.clearFlags_turns : (s.clearFlags v).turns = s.turns := rfl
@[simp] theorem State.clearFlags_reply : (s.clearFlags v).reply = s.reply := rfl
@[simp] theorem State.clearFlags_freeCtr : (s.clearFlags v).freeCtr = s.freeCtr := rfl
end

/-! A store to BUF. -/

section
variable (s : State) (a : Nat) (bs : List Byte)
@[simp] theorem State.putBuf_cfg : (s.putBuf a bs).cfg = s.cfg := rfl
@[simp] theorem State.putBuf_key : (s.putBuf a bs).key = s.key := rfl
@[simp] theorem State.putBuf_pskStatus : (s.putBuf a bs).pskStatus = s.pskStatus := rfl
@[simp] theorem State.putBuf_nonce : (s.putBuf a bs).nonce = s.nonce := rfl
@[simp] theorem State.putBuf_cs : (s.putBuf a bs).cs = s.cs := rfl
@[simp] theorem State.putBuf_csStage : (s.putBuf a bs).csStage = s.csStage := rfl
@[simp] theorem State.putBuf_session : (s.putBuf a bs).session = s.session := rfl
@[simp] theorem State.putBuf_mode : (s.putBuf a bs).mode = s.mode := rfl
@[simp] theorem State.putBuf_localAddr : (s.putBuf a bs).localAddr = s.localAddr := rfl
@[simp] theorem State.putBuf_inlen : (s.putBuf a bs).inlen = s.inlen := rfl
@[simp] theorem State.putBuf_txlen : (s.putBuf a bs).txlen = s.txlen := rfl
@[simp] theorem State.putBuf_ptlen : (s.putBuf a bs).ptlen = s.ptlen := rfl
@[simp] theorem State.putBuf_sendPending : (s.putBuf a bs).sendPending = s.sendPending := rfl
@[simp] theorem State.putBuf_confFail : (s.putBuf a bs).confFail = s.confFail := rfl
@[simp] theorem State.putBuf_result : (s.putBuf a bs).result = s.result := rfl
@[simp] theorem State.putBuf_src : (s.putBuf a bs).src = s.src := rfl
@[simp] theorem State.putBuf_dst : (s.putBuf a bs).dst = s.dst := rfl
@[simp] theorem State.putBuf_busy : (s.putBuf a bs).busy = s.busy := rfl
@[simp] theorem State.putBuf_cmdLatch : (s.putBuf a bs).cmdLatch = s.cmdLatch := rfl
@[simp] theorem State.putBuf_err : (s.putBuf a bs).err = s.err := rfl
@[simp] theorem State.putBuf_ovr : (s.putBuf a bs).ovr = s.ovr := rfl
@[simp] theorem State.putBuf_errinfo : (s.putBuf a bs).errinfo = s.errinfo := rfl
@[simp] theorem State.putBuf_buf : (s.putBuf a bs).buf = Memory.writeBytes Memory.bufBlank s.buf a bs := rfl
@[simp] theorem State.putBuf_nvm : (s.putBuf a bs).nvm = s.nvm := rfl
@[simp] theorem State.putBuf_nvmLog : (s.putBuf a bs).nvmLog = s.nvmLog := rfl
@[simp] theorem State.putBuf_events : (s.putBuf a bs).events = s.events := rfl
@[simp] theorem State.putBuf_bootPending : (s.putBuf a bs).bootPending = s.bootPending := rfl
@[simp] theorem State.putBuf_turns : (s.putBuf a bs).turns = s.turns := rfl
@[simp] theorem State.putBuf_reply : (s.putBuf a bs).reply = s.reply := rfl
@[simp] theorem State.putBuf_freeCtr : (s.putBuf a bs).freeCtr = s.freeCtr := rfl
end

/-! A write to NVM (20_memory R88). -/

section
variable (s : State) (a : Nat) (v : Byte)
@[simp] theorem State.nvmWrite_cfg : (s.nvmWrite a v).cfg = s.cfg := rfl
@[simp] theorem State.nvmWrite_key : (s.nvmWrite a v).key = s.key := rfl
@[simp] theorem State.nvmWrite_pskStatus : (s.nvmWrite a v).pskStatus = s.pskStatus := rfl
@[simp] theorem State.nvmWrite_nonce : (s.nvmWrite a v).nonce = s.nonce := rfl
@[simp] theorem State.nvmWrite_cs : (s.nvmWrite a v).cs = s.cs := rfl
@[simp] theorem State.nvmWrite_csStage : (s.nvmWrite a v).csStage = s.csStage := rfl
@[simp] theorem State.nvmWrite_session : (s.nvmWrite a v).session = s.session := rfl
@[simp] theorem State.nvmWrite_mode : (s.nvmWrite a v).mode = s.mode := rfl
@[simp] theorem State.nvmWrite_localAddr : (s.nvmWrite a v).localAddr = s.localAddr := rfl
@[simp] theorem State.nvmWrite_inlen : (s.nvmWrite a v).inlen = s.inlen := rfl
@[simp] theorem State.nvmWrite_txlen : (s.nvmWrite a v).txlen = s.txlen := rfl
@[simp] theorem State.nvmWrite_ptlen : (s.nvmWrite a v).ptlen = s.ptlen := rfl
@[simp] theorem State.nvmWrite_sendPending : (s.nvmWrite a v).sendPending = s.sendPending := rfl
@[simp] theorem State.nvmWrite_confFail : (s.nvmWrite a v).confFail = s.confFail := rfl
@[simp] theorem State.nvmWrite_result : (s.nvmWrite a v).result = s.result := rfl
@[simp] theorem State.nvmWrite_src : (s.nvmWrite a v).src = s.src := rfl
@[simp] theorem State.nvmWrite_dst : (s.nvmWrite a v).dst = s.dst := rfl
@[simp] theorem State.nvmWrite_busy : (s.nvmWrite a v).busy = s.busy := rfl
@[simp] theorem State.nvmWrite_cmdLatch : (s.nvmWrite a v).cmdLatch = s.cmdLatch := rfl
@[simp] theorem State.nvmWrite_err : (s.nvmWrite a v).err = s.err := rfl
@[simp] theorem State.nvmWrite_ovr : (s.nvmWrite a v).ovr = s.ovr := rfl
@[simp] theorem State.nvmWrite_errinfo : (s.nvmWrite a v).errinfo = s.errinfo := rfl
@[simp] theorem State.nvmWrite_buf : (s.nvmWrite a v).buf = s.buf := rfl
@[simp] theorem State.nvmWrite_nvm : (s.nvmWrite a v).nvm = Memory.write Memory.nvmBlank s.nvm a v := rfl
@[simp] theorem State.nvmWrite_nvmLog : (s.nvmWrite a v).nvmLog = s.nvmLog ++ [(a, v)] := rfl
@[simp] theorem State.nvmWrite_events : (s.nvmWrite a v).events = s.events := rfl
@[simp] theorem State.nvmWrite_bootPending : (s.nvmWrite a v).bootPending = s.bootPending := rfl
@[simp] theorem State.nvmWrite_turns : (s.nvmWrite a v).turns = s.turns := rfl
@[simp] theorem State.nvmWrite_reply : (s.nvmWrite a v).reply = s.reply := rfl
@[simp] theorem State.nvmWrite_freeCtr : (s.nvmWrite a v).freeCtr = s.freeCtr := rfl
end

/-! An event (00_scope R16). -/

section
variable (s : State) (e : Event)
@[simp] theorem State.emit_cfg : (s.emit e).cfg = s.cfg := rfl
@[simp] theorem State.emit_key : (s.emit e).key = s.key := rfl
@[simp] theorem State.emit_pskStatus : (s.emit e).pskStatus = s.pskStatus := rfl
@[simp] theorem State.emit_nonce : (s.emit e).nonce = s.nonce := rfl
@[simp] theorem State.emit_cs : (s.emit e).cs = s.cs := rfl
@[simp] theorem State.emit_csStage : (s.emit e).csStage = s.csStage := rfl
@[simp] theorem State.emit_session : (s.emit e).session = s.session := rfl
@[simp] theorem State.emit_mode : (s.emit e).mode = s.mode := rfl
@[simp] theorem State.emit_localAddr : (s.emit e).localAddr = s.localAddr := rfl
@[simp] theorem State.emit_inlen : (s.emit e).inlen = s.inlen := rfl
@[simp] theorem State.emit_txlen : (s.emit e).txlen = s.txlen := rfl
@[simp] theorem State.emit_ptlen : (s.emit e).ptlen = s.ptlen := rfl
@[simp] theorem State.emit_sendPending : (s.emit e).sendPending = s.sendPending := rfl
@[simp] theorem State.emit_confFail : (s.emit e).confFail = s.confFail := rfl
@[simp] theorem State.emit_result : (s.emit e).result = s.result := rfl
@[simp] theorem State.emit_src : (s.emit e).src = s.src := rfl
@[simp] theorem State.emit_dst : (s.emit e).dst = s.dst := rfl
@[simp] theorem State.emit_busy : (s.emit e).busy = s.busy := rfl
@[simp] theorem State.emit_cmdLatch : (s.emit e).cmdLatch = s.cmdLatch := rfl
@[simp] theorem State.emit_err : (s.emit e).err = s.err := rfl
@[simp] theorem State.emit_ovr : (s.emit e).ovr = s.ovr := rfl
@[simp] theorem State.emit_errinfo : (s.emit e).errinfo = s.errinfo := rfl
@[simp] theorem State.emit_buf : (s.emit e).buf = s.buf := rfl
@[simp] theorem State.emit_nvm : (s.emit e).nvm = s.nvm := rfl
@[simp] theorem State.emit_nvmLog : (s.emit e).nvmLog = s.nvmLog := rfl
@[simp] theorem State.emit_events : (s.emit e).events = s.events ++ [e] := rfl
@[simp] theorem State.emit_bootPending : (s.emit e).bootPending = s.bootPending := rfl
@[simp] theorem State.emit_turns : (s.emit e).turns = s.turns := rfl
@[simp] theorem State.emit_reply : (s.emit e).reply = s.reply := rfl
@[simp] theorem State.emit_freeCtr : (s.emit e).freeCtr = s.freeCtr := rfl
end

/-! `RESULT <- v`. -/

section
variable (s : State) (v : Word)
@[simp] theorem State.setResult_cfg : (s.setResult v).cfg = s.cfg := rfl
@[simp] theorem State.setResult_key : (s.setResult v).key = s.key := rfl
@[simp] theorem State.setResult_pskStatus : (s.setResult v).pskStatus = s.pskStatus := rfl
@[simp] theorem State.setResult_nonce : (s.setResult v).nonce = s.nonce := rfl
@[simp] theorem State.setResult_cs : (s.setResult v).cs = s.cs := rfl
@[simp] theorem State.setResult_csStage : (s.setResult v).csStage = s.csStage := rfl
@[simp] theorem State.setResult_session : (s.setResult v).session = s.session := rfl
@[simp] theorem State.setResult_mode : (s.setResult v).mode = s.mode := rfl
@[simp] theorem State.setResult_localAddr : (s.setResult v).localAddr = s.localAddr := rfl
@[simp] theorem State.setResult_inlen : (s.setResult v).inlen = s.inlen := rfl
@[simp] theorem State.setResult_txlen : (s.setResult v).txlen = s.txlen := rfl
@[simp] theorem State.setResult_ptlen : (s.setResult v).ptlen = s.ptlen := rfl
@[simp] theorem State.setResult_sendPending : (s.setResult v).sendPending = s.sendPending := rfl
@[simp] theorem State.setResult_confFail : (s.setResult v).confFail = s.confFail := rfl
@[simp] theorem State.setResult_result : (s.setResult v).result = v := rfl
@[simp] theorem State.setResult_src : (s.setResult v).src = s.src := rfl
@[simp] theorem State.setResult_dst : (s.setResult v).dst = s.dst := rfl
@[simp] theorem State.setResult_busy : (s.setResult v).busy = s.busy := rfl
@[simp] theorem State.setResult_cmdLatch : (s.setResult v).cmdLatch = s.cmdLatch := rfl
@[simp] theorem State.setResult_err : (s.setResult v).err = s.err := rfl
@[simp] theorem State.setResult_ovr : (s.setResult v).ovr = s.ovr := rfl
@[simp] theorem State.setResult_errinfo : (s.setResult v).errinfo = s.errinfo := rfl
@[simp] theorem State.setResult_buf : (s.setResult v).buf = s.buf := rfl
@[simp] theorem State.setResult_nvm : (s.setResult v).nvm = s.nvm := rfl
@[simp] theorem State.setResult_nvmLog : (s.setResult v).nvmLog = s.nvmLog := rfl
@[simp] theorem State.setResult_events : (s.setResult v).events = s.events := rfl
@[simp] theorem State.setResult_bootPending : (s.setResult v).bootPending = s.bootPending := rfl
@[simp] theorem State.setResult_turns : (s.setResult v).turns = s.turns := rfl
@[simp] theorem State.setResult_reply : (s.setResult v).reply = s.reply := rfl
@[simp] theorem State.setResult_freeCtr : (s.setResult v).freeCtr = s.freeCtr := rfl
end

/-! The end of an engine step (60_exceptions R280). -/

section
variable (s : State)
@[simp] theorem State.complete_cfg : s.complete.cfg = s.cfg := rfl
@[simp] theorem State.complete_key : s.complete.key = s.key := rfl
@[simp] theorem State.complete_pskStatus : s.complete.pskStatus = s.pskStatus := rfl
@[simp] theorem State.complete_nonce : s.complete.nonce = s.nonce := rfl
@[simp] theorem State.complete_cs : s.complete.cs = s.cs := rfl
@[simp] theorem State.complete_csStage : s.complete.csStage = s.csStage := rfl
@[simp] theorem State.complete_session : s.complete.session = s.session := rfl
@[simp] theorem State.complete_mode : s.complete.mode = s.mode := rfl
@[simp] theorem State.complete_localAddr : s.complete.localAddr = s.localAddr := rfl
@[simp] theorem State.complete_inlen : s.complete.inlen = s.inlen := rfl
@[simp] theorem State.complete_txlen : s.complete.txlen = s.txlen := rfl
@[simp] theorem State.complete_ptlen : s.complete.ptlen = s.ptlen := rfl
@[simp] theorem State.complete_sendPending : s.complete.sendPending = s.sendPending := rfl
@[simp] theorem State.complete_confFail : s.complete.confFail = s.confFail := rfl
@[simp] theorem State.complete_result : s.complete.result = s.result := rfl
@[simp] theorem State.complete_src : s.complete.src = s.src := rfl
@[simp] theorem State.complete_dst : s.complete.dst = s.dst := rfl
@[simp] theorem State.complete_busy : s.complete.busy = false := rfl
@[simp] theorem State.complete_cmdLatch : s.complete.cmdLatch = s.cmdLatch := rfl
@[simp] theorem State.complete_err : s.complete.err = s.err := rfl
@[simp] theorem State.complete_ovr : s.complete.ovr = s.ovr := rfl
@[simp] theorem State.complete_errinfo : s.complete.errinfo = s.errinfo := rfl
@[simp] theorem State.complete_buf : s.complete.buf = s.buf := rfl
@[simp] theorem State.complete_nvm : s.complete.nvm = s.nvm := rfl
@[simp] theorem State.complete_nvmLog : s.complete.nvmLog = s.nvmLog := rfl
@[simp] theorem State.complete_events : s.complete.events = s.events := rfl
@[simp] theorem State.complete_bootPending : s.complete.bootPending = s.bootPending := rfl
@[simp] theorem State.complete_turns : s.complete.turns = s.turns := rfl
@[simp] theorem State.complete_reply : s.complete.reply = s.reply := rfl
@[simp] theorem State.complete_freeCtr : s.complete.freeCtr = s.freeCtr + 1 := rfl
end

/-! keySetup (40_cipher R144). -/

section
variable (s : State) (k : List Byte)
@[simp] theorem State.keySetup_cfg : (s.keySetup k).cfg = s.cfg := rfl
@[simp] theorem State.keySetup_key : (s.keySetup k).key = s.key := rfl
@[simp] theorem State.keySetup_pskStatus : (s.keySetup k).pskStatus = s.pskStatus := rfl
@[simp] theorem State.keySetup_nonce : (s.keySetup k).nonce = s.nonce := rfl
@[simp] theorem State.keySetup_cs : (s.keySetup k).cs = keyWords k s.cs := rfl
@[simp] theorem State.keySetup_csStage : (s.keySetup k).csStage = .keyed := rfl
@[simp] theorem State.keySetup_session : (s.keySetup k).session = s.session := rfl
@[simp] theorem State.keySetup_mode : (s.keySetup k).mode = s.mode := rfl
@[simp] theorem State.keySetup_localAddr : (s.keySetup k).localAddr = s.localAddr := rfl
@[simp] theorem State.keySetup_inlen : (s.keySetup k).inlen = s.inlen := rfl
@[simp] theorem State.keySetup_txlen : (s.keySetup k).txlen = s.txlen := rfl
@[simp] theorem State.keySetup_ptlen : (s.keySetup k).ptlen = s.ptlen := rfl
@[simp] theorem State.keySetup_sendPending : (s.keySetup k).sendPending = s.sendPending := rfl
@[simp] theorem State.keySetup_confFail : (s.keySetup k).confFail = s.confFail := rfl
@[simp] theorem State.keySetup_result : (s.keySetup k).result = s.result := rfl
@[simp] theorem State.keySetup_src : (s.keySetup k).src = s.src := rfl
@[simp] theorem State.keySetup_dst : (s.keySetup k).dst = s.dst := rfl
@[simp] theorem State.keySetup_busy : (s.keySetup k).busy = s.busy := rfl
@[simp] theorem State.keySetup_cmdLatch : (s.keySetup k).cmdLatch = s.cmdLatch := rfl
@[simp] theorem State.keySetup_err : (s.keySetup k).err = s.err := rfl
@[simp] theorem State.keySetup_ovr : (s.keySetup k).ovr = s.ovr := rfl
@[simp] theorem State.keySetup_errinfo : (s.keySetup k).errinfo = s.errinfo := rfl
@[simp] theorem State.keySetup_buf : (s.keySetup k).buf = s.buf := rfl
@[simp] theorem State.keySetup_nvm : (s.keySetup k).nvm = s.nvm := rfl
@[simp] theorem State.keySetup_nvmLog : (s.keySetup k).nvmLog = s.nvmLog := rfl
@[simp] theorem State.keySetup_events : (s.keySetup k).events = s.events := rfl
@[simp] theorem State.keySetup_bootPending : (s.keySetup k).bootPending = s.bootPending := rfl
@[simp] theorem State.keySetup_turns : (s.keySetup k).turns = s.turns := rfl
@[simp] theorem State.keySetup_reply : (s.keySetup k).reply = s.reply := rfl
@[simp] theorem State.keySetup_freeCtr : (s.keySetup k).freeCtr = s.freeCtr := rfl
end

/-! ivSetup (40_cipher R145). -/

section
variable (s : State) (n : List Byte)
@[simp] theorem State.ivSetup_cfg : (s.ivSetup n).cfg = s.cfg := rfl
@[simp] theorem State.ivSetup_key : (s.ivSetup n).key = s.key := rfl
@[simp] theorem State.ivSetup_pskStatus : (s.ivSetup n).pskStatus = s.pskStatus := rfl
@[simp] theorem State.ivSetup_nonce : (s.ivSetup n).nonce = s.nonce := rfl
@[simp] theorem State.ivSetup_cs : (s.ivSetup n).cs = ivWords n s.cs := rfl
@[simp] theorem State.ivSetup_csStage : (s.ivSetup n).csStage = .ready := rfl
@[simp] theorem State.ivSetup_session : (s.ivSetup n).session = s.session := rfl
@[simp] theorem State.ivSetup_mode : (s.ivSetup n).mode = s.mode := rfl
@[simp] theorem State.ivSetup_localAddr : (s.ivSetup n).localAddr = s.localAddr := rfl
@[simp] theorem State.ivSetup_inlen : (s.ivSetup n).inlen = s.inlen := rfl
@[simp] theorem State.ivSetup_txlen : (s.ivSetup n).txlen = s.txlen := rfl
@[simp] theorem State.ivSetup_ptlen : (s.ivSetup n).ptlen = s.ptlen := rfl
@[simp] theorem State.ivSetup_sendPending : (s.ivSetup n).sendPending = s.sendPending := rfl
@[simp] theorem State.ivSetup_confFail : (s.ivSetup n).confFail = s.confFail := rfl
@[simp] theorem State.ivSetup_result : (s.ivSetup n).result = s.result := rfl
@[simp] theorem State.ivSetup_src : (s.ivSetup n).src = s.src := rfl
@[simp] theorem State.ivSetup_dst : (s.ivSetup n).dst = s.dst := rfl
@[simp] theorem State.ivSetup_busy : (s.ivSetup n).busy = s.busy := rfl
@[simp] theorem State.ivSetup_cmdLatch : (s.ivSetup n).cmdLatch = s.cmdLatch := rfl
@[simp] theorem State.ivSetup_err : (s.ivSetup n).err = s.err := rfl
@[simp] theorem State.ivSetup_ovr : (s.ivSetup n).ovr = s.ovr := rfl
@[simp] theorem State.ivSetup_errinfo : (s.ivSetup n).errinfo = s.errinfo := rfl
@[simp] theorem State.ivSetup_buf : (s.ivSetup n).buf = s.buf := rfl
@[simp] theorem State.ivSetup_nvm : (s.ivSetup n).nvm = s.nvm := rfl
@[simp] theorem State.ivSetup_nvmLog : (s.ivSetup n).nvmLog = s.nvmLog := rfl
@[simp] theorem State.ivSetup_events : (s.ivSetup n).events = s.events := rfl
@[simp] theorem State.ivSetup_bootPending : (s.ivSetup n).bootPending = s.bootPending := rfl
@[simp] theorem State.ivSetup_turns : (s.ivSetup n).turns = s.turns := rfl
@[simp] theorem State.ivSetup_reply : (s.ivSetup n).reply = s.reply := rfl
@[simp] theorem State.ivSetup_freeCtr : (s.ivSetup n).freeCtr = s.freeCtr := rfl
end

/-! `CS <- x`. -/

section
variable (s : State) (x : Vector Word 16)
@[simp] theorem State.setCs_cfg : (s.setCs x).cfg = s.cfg := rfl
@[simp] theorem State.setCs_key : (s.setCs x).key = s.key := rfl
@[simp] theorem State.setCs_pskStatus : (s.setCs x).pskStatus = s.pskStatus := rfl
@[simp] theorem State.setCs_nonce : (s.setCs x).nonce = s.nonce := rfl
@[simp] theorem State.setCs_cs : (s.setCs x).cs = x := rfl
@[simp] theorem State.setCs_csStage : (s.setCs x).csStage = s.csStage := rfl
@[simp] theorem State.setCs_session : (s.setCs x).session = s.session := rfl
@[simp] theorem State.setCs_mode : (s.setCs x).mode = s.mode := rfl
@[simp] theorem State.setCs_localAddr : (s.setCs x).localAddr = s.localAddr := rfl
@[simp] theorem State.setCs_inlen : (s.setCs x).inlen = s.inlen := rfl
@[simp] theorem State.setCs_txlen : (s.setCs x).txlen = s.txlen := rfl
@[simp] theorem State.setCs_ptlen : (s.setCs x).ptlen = s.ptlen := rfl
@[simp] theorem State.setCs_sendPending : (s.setCs x).sendPending = s.sendPending := rfl
@[simp] theorem State.setCs_confFail : (s.setCs x).confFail = s.confFail := rfl
@[simp] theorem State.setCs_result : (s.setCs x).result = s.result := rfl
@[simp] theorem State.setCs_src : (s.setCs x).src = s.src := rfl
@[simp] theorem State.setCs_dst : (s.setCs x).dst = s.dst := rfl
@[simp] theorem State.setCs_busy : (s.setCs x).busy = s.busy := rfl
@[simp] theorem State.setCs_cmdLatch : (s.setCs x).cmdLatch = s.cmdLatch := rfl
@[simp] theorem State.setCs_err : (s.setCs x).err = s.err := rfl
@[simp] theorem State.setCs_ovr : (s.setCs x).ovr = s.ovr := rfl
@[simp] theorem State.setCs_errinfo : (s.setCs x).errinfo = s.errinfo := rfl
@[simp] theorem State.setCs_buf : (s.setCs x).buf = s.buf := rfl
@[simp] theorem State.setCs_nvm : (s.setCs x).nvm = s.nvm := rfl
@[simp] theorem State.setCs_nvmLog : (s.setCs x).nvmLog = s.nvmLog := rfl
@[simp] theorem State.setCs_events : (s.setCs x).events = s.events := rfl
@[simp] theorem State.setCs_bootPending : (s.setCs x).bootPending = s.bootPending := rfl
@[simp] theorem State.setCs_turns : (s.setCs x).turns = s.turns := rfl
@[simp] theorem State.setCs_reply : (s.setCs x).reply = s.reply := rfl
@[simp] theorem State.setCs_freeCtr : (s.setCs x).freeCtr = s.freeCtr := rfl
end

/-! `NONCE <- n`. -/

section
variable (s : State) (n : List Byte)
@[simp] theorem State.setNonce_cfg : (s.setNonce n).cfg = s.cfg := rfl
@[simp] theorem State.setNonce_key : (s.setNonce n).key = s.key := rfl
@[simp] theorem State.setNonce_pskStatus : (s.setNonce n).pskStatus = s.pskStatus := rfl
@[simp] theorem State.setNonce_nonce : (s.setNonce n).nonce = toBytes 8 n := rfl
@[simp] theorem State.setNonce_cs : (s.setNonce n).cs = s.cs := rfl
@[simp] theorem State.setNonce_csStage : (s.setNonce n).csStage = s.csStage := rfl
@[simp] theorem State.setNonce_session : (s.setNonce n).session = s.session := rfl
@[simp] theorem State.setNonce_mode : (s.setNonce n).mode = s.mode := rfl
@[simp] theorem State.setNonce_localAddr : (s.setNonce n).localAddr = s.localAddr := rfl
@[simp] theorem State.setNonce_inlen : (s.setNonce n).inlen = s.inlen := rfl
@[simp] theorem State.setNonce_txlen : (s.setNonce n).txlen = s.txlen := rfl
@[simp] theorem State.setNonce_ptlen : (s.setNonce n).ptlen = s.ptlen := rfl
@[simp] theorem State.setNonce_sendPending : (s.setNonce n).sendPending = s.sendPending := rfl
@[simp] theorem State.setNonce_confFail : (s.setNonce n).confFail = s.confFail := rfl
@[simp] theorem State.setNonce_result : (s.setNonce n).result = s.result := rfl
@[simp] theorem State.setNonce_src : (s.setNonce n).src = s.src := rfl
@[simp] theorem State.setNonce_dst : (s.setNonce n).dst = s.dst := rfl
@[simp] theorem State.setNonce_busy : (s.setNonce n).busy = s.busy := rfl
@[simp] theorem State.setNonce_cmdLatch : (s.setNonce n).cmdLatch = s.cmdLatch := rfl
@[simp] theorem State.setNonce_err : (s.setNonce n).err = s.err := rfl
@[simp] theorem State.setNonce_ovr : (s.setNonce n).ovr = s.ovr := rfl
@[simp] theorem State.setNonce_errinfo : (s.setNonce n).errinfo = s.errinfo := rfl
@[simp] theorem State.setNonce_buf : (s.setNonce n).buf = s.buf := rfl
@[simp] theorem State.setNonce_nvm : (s.setNonce n).nvm = s.nvm := rfl
@[simp] theorem State.setNonce_nvmLog : (s.setNonce n).nvmLog = s.nvmLog := rfl
@[simp] theorem State.setNonce_events : (s.setNonce n).events = s.events := rfl
@[simp] theorem State.setNonce_bootPending : (s.setNonce n).bootPending = s.bootPending := rfl
@[simp] theorem State.setNonce_turns : (s.setNonce n).turns = s.turns := rfl
@[simp] theorem State.setNonce_reply : (s.setNonce n).reply = s.reply := rfl
@[simp] theorem State.setNonce_freeCtr : (s.setNonce n).freeCtr = s.freeCtr := rfl
end

/-! A dropped host write (20_memory R93). -/

section
variable (s : State)
@[simp] theorem State.dropWrite_cfg : s.dropWrite.cfg = s.cfg := rfl
@[simp] theorem State.dropWrite_key : s.dropWrite.key = s.key := rfl
@[simp] theorem State.dropWrite_pskStatus : s.dropWrite.pskStatus = s.pskStatus := rfl
@[simp] theorem State.dropWrite_nonce : s.dropWrite.nonce = s.nonce := rfl
@[simp] theorem State.dropWrite_cs : s.dropWrite.cs = s.cs := rfl
@[simp] theorem State.dropWrite_csStage : s.dropWrite.csStage = s.csStage := rfl
@[simp] theorem State.dropWrite_session : s.dropWrite.session = s.session := rfl
@[simp] theorem State.dropWrite_mode : s.dropWrite.mode = s.mode := rfl
@[simp] theorem State.dropWrite_localAddr : s.dropWrite.localAddr = s.localAddr := rfl
@[simp] theorem State.dropWrite_inlen : s.dropWrite.inlen = s.inlen := rfl
@[simp] theorem State.dropWrite_txlen : s.dropWrite.txlen = s.txlen := rfl
@[simp] theorem State.dropWrite_ptlen : s.dropWrite.ptlen = s.ptlen := rfl
@[simp] theorem State.dropWrite_sendPending : s.dropWrite.sendPending = s.sendPending := rfl
@[simp] theorem State.dropWrite_confFail : s.dropWrite.confFail = s.confFail := rfl
@[simp] theorem State.dropWrite_result : s.dropWrite.result = s.result := rfl
@[simp] theorem State.dropWrite_src : s.dropWrite.src = s.src := rfl
@[simp] theorem State.dropWrite_dst : s.dropWrite.dst = s.dst := rfl
@[simp] theorem State.dropWrite_busy : s.dropWrite.busy = s.busy := rfl
@[simp] theorem State.dropWrite_cmdLatch : s.dropWrite.cmdLatch = s.cmdLatch := rfl
@[simp] theorem State.dropWrite_err : s.dropWrite.err = s.err := rfl
@[simp] theorem State.dropWrite_ovr : s.dropWrite.ovr = true := rfl
@[simp] theorem State.dropWrite_errinfo : s.dropWrite.errinfo = s.errinfo := rfl
@[simp] theorem State.dropWrite_buf : s.dropWrite.buf = s.buf := rfl
@[simp] theorem State.dropWrite_nvm : s.dropWrite.nvm = s.nvm := rfl
@[simp] theorem State.dropWrite_nvmLog : s.dropWrite.nvmLog = s.nvmLog := rfl
@[simp] theorem State.dropWrite_events : s.dropWrite.events = s.events := rfl
@[simp] theorem State.dropWrite_bootPending : s.dropWrite.bootPending = s.bootPending := rfl
@[simp] theorem State.dropWrite_turns : s.dropWrite.turns = s.turns := rfl
@[simp] theorem State.dropWrite_reply : s.dropWrite.reply = s.reply := rfl
@[simp] theorem State.dropWrite_freeCtr : s.dropWrite.freeCtr = s.freeCtr := rfl
end

/-! A `CMD` write while idle (10_state R48). -/

section
variable (s : State) (v : Word)
@[simp] theorem State.issue_cfg : (s.issue v).cfg = s.cfg := rfl
@[simp] theorem State.issue_key : (s.issue v).key = s.key := rfl
@[simp] theorem State.issue_pskStatus : (s.issue v).pskStatus = s.pskStatus := rfl
@[simp] theorem State.issue_nonce : (s.issue v).nonce = s.nonce := rfl
@[simp] theorem State.issue_cs : (s.issue v).cs = s.cs := rfl
@[simp] theorem State.issue_csStage : (s.issue v).csStage = s.csStage := rfl
@[simp] theorem State.issue_session : (s.issue v).session = s.session := rfl
@[simp] theorem State.issue_mode : (s.issue v).mode = s.mode := rfl
@[simp] theorem State.issue_localAddr : (s.issue v).localAddr = s.localAddr := rfl
@[simp] theorem State.issue_inlen : (s.issue v).inlen = s.inlen := rfl
@[simp] theorem State.issue_txlen : (s.issue v).txlen = s.txlen := rfl
@[simp] theorem State.issue_ptlen : (s.issue v).ptlen = s.ptlen := rfl
@[simp] theorem State.issue_sendPending : (s.issue v).sendPending = s.sendPending := rfl
@[simp] theorem State.issue_confFail : (s.issue v).confFail = s.confFail := rfl
@[simp] theorem State.issue_result : (s.issue v).result = s.result := rfl
@[simp] theorem State.issue_src : (s.issue v).src = s.src := rfl
@[simp] theorem State.issue_dst : (s.issue v).dst = s.dst := rfl
@[simp] theorem State.issue_busy : (s.issue v).busy = true := rfl
@[simp] theorem State.issue_cmdLatch : (s.issue v).cmdLatch = v := rfl
@[simp] theorem State.issue_err : (s.issue v).err = s.err := rfl
@[simp] theorem State.issue_ovr : (s.issue v).ovr = s.ovr := rfl
@[simp] theorem State.issue_errinfo : (s.issue v).errinfo = s.errinfo := rfl
@[simp] theorem State.issue_buf : (s.issue v).buf = s.buf := rfl
@[simp] theorem State.issue_nvm : (s.issue v).nvm = s.nvm := rfl
@[simp] theorem State.issue_nvmLog : (s.issue v).nvmLog = s.nvmLog := rfl
@[simp] theorem State.issue_events : (s.issue v).events = s.events := rfl
@[simp] theorem State.issue_bootPending : (s.issue v).bootPending = s.bootPending := rfl
@[simp] theorem State.issue_turns : (s.issue v).turns = s.turns := rfl
@[simp] theorem State.issue_reply : (s.issue v).reply = s.reply := rfl
@[simp] theorem State.issue_freeCtr : (s.issue v).freeCtr = s.freeCtr := rfl
end

end Sys2Proof.Machine
end

