-- ==== Sys2Proof/Laws/Ops.lean ====
section
/-! SUPPORT. Everything the shared operations can do, one lemma each, and what BUF and NVM read as after a store. -/

namespace Sys2Proof.Machine

variable {α β : Type} {s t : State}

theorem andThen_next {x : Answer α} {f : α → Answer β} {b : β} :
    andThen x f = .next b ↔ ∃ a, x = .next a ∧ f a = .next b := by
  cases x <;> simp [andThen]

@[simp] theorem andThen_next_left (a : α) (f : α → Answer β) : andThen (.next a) f = f a := rfl
@[simp] theorem andThen_fault_left (r : Fault) (f : α → Answer β) : andThen (.fault r) f = .fault r := rfl
@[simp] theorem andThen_refused_left (r : Refusal) (f : α → Answer β) : andThen (.refused r) f = .refused r := rfl

theorem andThen_fault {x : Answer α} {f : α → Answer β} {r : Fault} :
    andThen x f = .fault r ↔ x = .fault r ∨ ∃ a, x = .next a ∧ f a = .fault r := by
  cases x <;> simp [andThen]

@[simp] theorem firstError_nil : firstError [] = none := rfl
@[simp] theorem firstError_cons (failed : Bool) (e : CmdErr) (checks : List (Bool × CmdErr)) :
    firstError ((failed, e) :: checks) = if failed then some e else firstError checks := rfl

/-- A command answers a next state in one of two ways: the first failed check, or its effect. -/
theorem guarded_next {op : Byte} {checks : List (Bool × CmdErr)} {run : Result} :
    guarded op checks s run = .next t ↔
      (∃ e, firstError checks = some e ∧ t = s.takeError op e) ∨ (firstError checks = none ∧ run = .next t) := by
  unfold guarded
  cases firstError checks <;> simp [eq_comm]

theorem guarded_of_error {op : Byte} {checks : List (Bool × CmdErr)} {run : Result} {e : CmdErr}
    (h : firstError checks = some e) : guarded op checks s run = .next (s.takeError op e) := by
  simp [guarded, h]

theorem guarded_of_ok {op : Byte} {checks : List (Bool × CmdErr)} {run : Result}
    (h : firstError checks = none) : guarded op checks s run = run := by
  simp [guarded, h]

/-- A command that reads BUF goes on with the bytes, all of them written since reset. -/
theorem withBuf_next {a n : Nat} {use : List Byte → Answer α} {b : α} :
    withBuf s a n use = .next b ↔ ∃ bytes, s.bufBytes a n = some bytes ∧ use bytes = .next b := by
  unfold withBuf
  cases s.bufBytes a n <;> simp

theorem withBuf_of_some {a n : Nat} {use : List Byte → Answer α} {bytes : List Byte}
    (h : s.bufBytes a n = some bytes) : withBuf s a n use = use bytes := by
  simp [withBuf, h]

theorem withBuf_of_none {a n : Nat} {use : List Byte → Answer α} (h : s.bufBytes a n = none) :
    withBuf s a n use = .fault .uninitRead := by
  simp [withBuf, h]

theorem writeBuf_next {a : Nat} {bytes : List Byte} :
    writeBuf a bytes s = .next t ↔ a + bytes.length ≤ s.cfg.bufSize ∧ t = s.putBuf a bytes := by
  unfold writeBuf
  split <;> simp_all [eq_comm]

theorem writeBuf_of_fits {a : Nat} {bytes : List Byte} (h : a + bytes.length ≤ s.cfg.bufSize) :
    writeBuf a bytes s = .next (s.putBuf a bytes) := if_pos h

@[simp] theorem State.pastBuf_eq_false {a : Half} {n : Nat} :
    s.pastBuf a n = false ↔ a.toNat + n ≤ s.cfg.bufSize := by
  simp [State.pastBuf]

@[simp] theorem State.pastBuf_eq_true {a : Half} {n : Nat} :
    s.pastBuf a n = true ↔ s.cfg.bufSize < a.toNat + n := by
  simp [State.pastBuf]

theorem State.bufBytes_length {a n : Nat} {bytes : List Byte} (h : s.bufBytes a n = some bytes) :
    bytes.length = n := Memory.readBytes_length h

/-- Reading a stored range of BUF gives the stored bytes. -/
theorem State.bufBytes_putBuf (a : Nat) (bytes : List Byte) :
    (s.putBuf a bytes).bufBytes a bytes.length = some bytes := Memory.readBytes_writeBytes _ _ _

/-- A store leaves every byte outside its range as it was. -/
theorem State.bufByte_putBuf_outside {a b : Nat} {bytes : List Byte} (h : b < a ∨ a + bytes.length ≤ b) :
    (s.putBuf a bytes).bufByte b = s.bufByte b := Memory.read_writeBytes_outside h

theorem State.bufByte_putBuf_isSome {a b : Nat} {bytes : List Byte} (h : (s.bufByte b).isSome) :
    ((s.putBuf a bytes).bufByte b).isSome := by
  unfold State.bufByte State.putBuf
  rw [Memory.read_writeBytes]
  split
  · next hb => rw [List.getElem?_eq_getElem (by omega)]; rfl
  · exact h

theorem State.bufBytes_congr {a n : Nat} (h : ∀ i < n, t.bufByte (a + i) = s.bufByte (a + i)) :
    t.bufBytes a n = s.bufBytes a n := Memory.readBytes_congr h

theorem State.bufBytes_eq_some {a n : Nat} {bytes : List Byte} :
    s.bufBytes a n = some bytes ↔ bytes.length = n ∧ ∀ i < n, s.bufByte (a + i) = bytes[i]? :=
  Memory.readBytes_eq_some

theorem State.bufBytes_isSome {a n : Nat} (h : ∀ i < n, (s.bufByte (a + i)).isSome) :
    ∃ bytes, s.bufBytes a n = some bytes := Memory.readBytes_isSome h

/-- NVM after one write (20_memory R89). -/
theorem State.nvmByte_nvmWrite (a : Nat) (v : Byte) (b : Nat) :
    (s.nvmWrite a v).nvmByte b = if b = a then v else s.nvmByte b := by
  unfold State.nvmByte State.nvmWrite
  rw [Memory.read_write]
  split <;> simp

/-- NVM after consecutive writes: the bytes stored, and one log entry a byte in ascending order. -/
theorem State.nvmWrites_eq (a : Nat) (vs : List Byte) (s : State) :
    State.nvmWrites a vs s =
      { s with
        nvm := Memory.writeBytes Memory.nvmBlank s.nvm a vs
        nvmLog := s.nvmLog ++ (vs.zipIdx a).map fun x => (x.2, x.1) } := by
  induction vs generalizing a s with
  | nil => simp [State.nvmWrites, Memory.writeBytes]
  | cons v vs ih => simp [State.nvmWrites, ih, State.nvmWrite, Memory.writeBytes]

theorem State.nvmByte_writeBytes (a : Nat) (vs : List Byte) (b : Nat) (log : List Host.Cell) :
    State.nvmByte { s with nvm := Memory.writeBytes Memory.nvmBlank s.nvm a vs, nvmLog := log } b =
      if a ≤ b ∧ b < a + vs.length then vs.getD (b - a) 0 else s.nvmByte b := by
  unfold State.nvmByte
  simp only [Memory.read_writeBytes]
  split <;> simp

@[simp] theorem State.notify_eq (n : Notice) (s : State) : s.notify n = s.emit (.notice n) := rfl

@[simp] theorem toBytes_toList_length (n : Nat) (bytes : List Byte) : (toBytes n bytes).toList.length = n := by simp

/-- A register of `n` bytes loaded with `n` bytes holds them. -/
theorem toBytes_toList {n : Nat} {bytes : List Byte} (h : bytes.length = n) : (toBytes n bytes).toList = bytes := by
  apply List.ext_getElem
  · simp [h]
  · intro i h1 h2
    simp [toBytes, List.getElem?_eq_getElem h2]

end Sys2Proof.Machine
end

