-- ==== Sys2Proof/Laws/Bus.lean ====
section
/-! SUPPORT. What a host access reaches, and the bytes of a bus word. -/

namespace Sys2Proof.Machine

variable {a : BitVec 17} {k : Nat}

theorem busTarget_word (h : a.toNat = windowBase + k) (hk : k % 4 = 0) : busTarget .word a = .window k 4 := by
  have hb : windowBase = 0x10000 := rfl
  have e : a.toNat - windowBase = k := by omega
  unfold busTarget
  simp only
  rw [if_neg (by omega), if_pos (by omega), e]

theorem busTarget_byte (h : a.toNat = windowBase + k) : busTarget .byte a = .window k 1 := by
  have e : a.toNat - windowBase = k := by omega
  unfold busTarget
  simp only
  rw [if_neg (by omega), e]

theorem busTarget_half : busTarget .half a = .badAccess := by
  unfold busTarget
  simp

theorem regAt_none {n : Nat} (h : 0x38 ≤ n) : regAt n = none := by
  unfold regAt
  split <;> first | omega | rfl

/-- A byte, and a little-endian word of four bytes (20_memory R90). -/
theorem le32_four (v0 v1 v2 v3 : Byte) : le32 [v0, v1, v2, v3] 0 = v3 ++ v2 ++ v1 ++ v0 := by
  unfold le32
  ext i hi
  simp
  grind

theorem wbytes_four (v0 v1 v2 v3 : Byte) : wbytes (v3 ++ v2 ++ v1 ++ v0) = [v0, v1, v2, v3] := by
  rw [← le32_four]
  unfold wbytes le32
  refine congrArg₂ List.cons ?_ (congrArg₂ List.cons ?_ (congrArg₂ List.cons ?_ (congrArg₂ List.cons ?_ rfl))) <;>
    (ext i hi; simp; try grind)

end Sys2Proof.Machine
end

