-- ==== Sys2Proof/Laws/Nonce.lean ====
section
/-! SUPPORT. The nonce: lengths and the order `compare` gives. -/

namespace Sys2Proof.Machine

@[simp] theorem incBytes_length (n : List Byte) : (incBytes n).length = n.length := by
  induction n with
  | nil => rfl
  | cons b rest ih => simp only [incBytes]; split <;> simp [ih]

theorem compareBytes_eq {as bs : List Byte} (h : as.length = bs.length) : compareBytes as bs = .eq ↔ as = bs := by
  induction as generalizing bs with
  | nil => cases bs <;> simp_all [compareBytes]
  | cons a as ih =>
    cases bs with
    | nil => simp at h
    | cons b bs =>
      simp only [compareBytes, List.cons.injEq]
      split
      · simp; intro hab; subst hab; simp at *
      · split
        · simp; intro hab; subst hab; simp at *
        · have hab : a = b := BitVec.le_antisymm (by simpa using ‹¬ b < a›) (by simpa using ‹¬ a < b›)
          simp [hab, ih (by simpa using h)]

theorem compareBytes_swap (as bs : List Byte) : compareBytes as bs = (compareBytes bs as).swap := by
  induction as generalizing bs with
  | nil => cases bs <;> rfl
  | cons a as ih =>
    cases bs with
    | nil => rfl
    | cons b bs =>
      simp only [compareBytes]
      by_cases h1 : b < a
      · have h2 : ¬ a < b := fun h => absurd h (by simpa using BitVec.le_of_lt h1)
        simp [h1, h2]
      · by_cases h2 : a < b
        · simp [h1, h2]
        · simp [h1, h2, ih]

/-- The nonce after `setNonce` of 8 bytes is those bytes. -/
theorem State.setNonce_toList {n : List Byte} {s : State} (h : n.length = 8) : (s.setNonce n).nonce.toList = n :=
  toBytes_toList h

theorem State.incNonce_toList (s : State) : s.incNonce.nonce.toList = incBytes s.nonce.toList :=
  State.setNonce_toList (by simp)

end Sys2Proof.Machine
end

