-- ==== Sys2Proof/Laws/Salsa.lean ====
section
/-! SUPPORT. The cipher core: lengths, the keystream byte by byte, and the involution. -/

namespace Sys2Proof.Machine

variable {mode : CtrMode}

@[simp] theorem wbytes_length (w : Word) : (wbytes w).length = 4 := rfl

@[simp] theorem salsa20Block_length (x : Vector Word 16) : (salsa20Block x).length = 64 := by
  simp only [salsa20Block, List.length_flatMap, wbytes_length]
  simp

theorem xcryptBlocks_length (n : Nat) (x : Vector Word 16) (input : List Byte) (h : input.length ≤ 64 * n) :
    (xcryptBlocks mode n x input).1.length = input.length := by
  induction n generalizing x input with
  | zero => simp only [xcryptBlocks]; simp; omega
  | succ n ih =>
    simp only [xcryptBlocks, List.length_append, List.length_zipWith, List.length_take, salsa20Block_length]
    rw [ih _ _ (by simp; omega)]
    simp; omega

/-- The output is as long as the input (40_cipher R150). -/
@[simp] theorem xcrypt_length (x : Vector Word 16) (input : List Byte) :
    (xcrypt mode x input).1.length = input.length := xcryptBlocks_length _ _ _ (by omega)

theorem xcryptBlocks_state (n : Nat) (x : Vector Word 16) (input : List Byte) :
    (xcryptBlocks mode n x input).2 = (ctrAdvance mode)^[n] x := by
  induction n generalizing x input with
  | zero => rfl
  | succ n ih => simp only [xcryptBlocks, ih]; rfl

/-- The counter is advanced once a block (40_cipher R150). -/
theorem xcrypt_state (x : Vector Word 16) (input : List Byte) :
    (xcrypt mode x input).2 = (ctrAdvance mode)^[(input.length + 63) / 64] x := xcryptBlocks_state _ _ _

theorem xcryptBlocks_getD (n : Nat) (x : Vector Word 16) (input : List Byte) (h : input.length ≤ 64 * n) (p : Nat)
    (hp : p < input.length) :
    (xcryptBlocks mode n x input).1.getD p 0 =
      input.getD p 0 ^^^ (salsa20Block ((ctrAdvance mode)^[p / 64] x)).getD (p % 64) 0 := by
  induction n generalizing x input p with
  | zero => omega
  | succ n ih =>
    simp only [xcryptBlocks]
    by_cases hlt : p < 64
    · have hl : p < (List.zipWith (· ^^^ ·) (input.take 64) (salsa20Block x)).length := by simp; omega
      rw [List.getD_append _ _ _ _ hl, Nat.div_eq_of_lt hlt, Nat.mod_eq_of_lt hlt]
      have h1 : p < (salsa20Block x).length := by simp; omega
      simp only [Function.iterate_zero, id_eq, List.getD_eq_getElem?_getD]
      rw [List.getElem?_eq_getElem hl, List.getElem?_eq_getElem hp, List.getElem?_eq_getElem h1]
      simp
    · obtain ⟨q, rfl⟩ : ∃ q, p = 64 + q := ⟨p - 64, by omega⟩
      have hl : (List.zipWith (· ^^^ ·) (input.take 64) (salsa20Block x)).length = 64 := by simp; omega
      rw [List.getD_append_right _ _ _ _ (by omega), hl, show 64 + q - 64 = q by omega,
        ih _ _ (by simp; omega) _ (by simp; omega), show (64 + q) / 64 = q / 64 + 1 by omega,
        show (64 + q) % 64 = q % 64 by omega, Function.iterate_succ_apply]
      congr 1
      simp [List.getElem?_drop]

/-- Output byte `p` is input byte `p` XOR byte `p % 64` of the block after `p / 64` advances (40_cipher R150). -/
theorem xcrypt_getD (x : Vector Word 16) (input : List Byte) (p : Nat) (hp : p < input.length) :
    (xcrypt mode x input).1.getD p 0 =
      input.getD p 0 ^^^ (salsa20Block ((ctrAdvance mode)^[p / 64] x)).getD (p % 64) 0 :=
  xcryptBlocks_getD _ _ _ (by omega) _ hp

/-- Two byte strings of one length are equal when every byte is. -/
theorem bytes_ext {as bs : List Byte} (hl : as.length = bs.length) (h : ∀ p < as.length, as.getD p 0 = bs.getD p 0) :
    as = bs := by
  apply List.ext_getElem hl
  intro p h1 h2
  simpa [List.getElem?_eq_getElem, h1, h2] using h p h1

/-- The involution (40_cipher R151): the same state XORs the output back to the input. -/
theorem xcrypt_xcrypt (x : Vector Word 16) (input : List Byte) :
    (xcrypt mode x (xcrypt mode x input).1).1 = input := by
  apply bytes_ext (by simp)
  intro p hp
  have hp : p < input.length := by simpa using hp
  rw [xcrypt_getD _ _ _ (by simpa using hp), xcrypt_getD _ _ _ hp]
  simp

/-- What a message's cipher state is: the constant, the key, the nonce, a zero counter (40_cipher R141, R142); nothing of the
state before it is left. -/
theorem ivWords_keyWords (key nonce : List Byte) (x : Vector Word 16) :
    ivWords nonce (keyWords key x) =
      #v[sigma0, le32 key 0, le32 key 4, le32 key 8, le32 key 12, sigma1, le32 nonce 0, le32 nonce 4,
         0, 0, sigma2, le32 key 16, le32 key 20, le32 key 24, le32 key 28, sigma3] := rfl

theorem ctrAdvance_frozen (x : Vector Word 16) : ctrAdvance .frozen x = x := rfl

theorem ctrAdvance_iterate_frozen (n : Nat) (x : Vector Word 16) : (ctrAdvance .frozen)^[n] x = x := by
  induction n with
  | zero => rfl
  | succ n ih => rw [Function.iterate_succ_apply, ctrAdvance_frozen, ih]

/-- Advancing the counter touches words 8 and 9 alone (40_cipher R149). -/
theorem ctrAdvance_getElem (x : Vector Word 16) (i : Nat) (hi : i < 16) (h8 : i ≠ 8) (h9 : i ≠ 9) :
    (ctrAdvance mode x)[i] = x[i] := by
  cases mode with
  | frozen => rfl
  | advance =>
    simp only [ctrAdvance]
    split <;> simp [h8.symm, h9.symm]

theorem ctrAdvance_iterate_getElem (n : Nat) (x : Vector Word 16) (i : Nat) (hi : i < 16) (h8 : i ≠ 8) (h9 : i ≠ 9) :
    ((ctrAdvance mode)^[n] x)[i] = x[i] := by
  induction n generalizing x with
  | zero => rfl
  | succ n ih => rw [Function.iterate_succ_apply, ih, ctrAdvance_getElem _ _ hi h8 h9]

end Sys2Proof.Machine
end

