-- ==== Sys2Proof/Laws/Commands.lean ====
section
/-! SUPPORT. Everything each command can do when it answers a next state, one lemma a command: the error it raises, or its
effect written out. Whole-machine proofs cite these and never unfold a meaning. -/

namespace Sys2Proof.Machine

variable {s t : State}

/-- The state after the shared `encode` (43_codec R211): the message's cipher state, then the envelope stored. -/
def State.encoded (pt : List Byte) (dst : Nat) (s : State) : State :=
  let u := s.messageSetup s.nonce.toList
  let r := xcrypt u.cfg.ctrMode u.cs pt
  (u.setCs r.2).putBuf dst (s.nonce.toList ++ r.1)

/-- The state after the shared `decode` (43_codec R213): the message's cipher state, then plaintext and NUL stored. -/
def State.decoded (hdr ct : List Byte) (dst : Nat) (s : State) : State :=
  let u := s.messageSetup hdr
  let r := xcrypt u.cfg.ctrMode u.cs ct
  (u.setCs r.2).putBuf dst (r.1 ++ [0x00])

/-- The plaintext the shared `decode` recovers. -/
def State.plaintext (hdr ct : List Byte) (s : State) : List Byte :=
  (xcrypt s.cfg.ctrMode (s.messageSetup hdr).cs ct).1

@[simp] theorem State.messageSetup_cs (n : List Byte) (s : State) :
    (s.messageSetup n).cs = ivWords n (keyWords s.key.toList s.cs) := rfl
@[simp] theorem State.messageSetup_cfg (n : List Byte) (s : State) : (s.messageSetup n).cfg = s.cfg := rfl
@[simp] theorem State.messageSetup_buf (n : List Byte) (s : State) : (s.messageSetup n).buf = s.buf := rfl

@[simp] theorem State.plaintext_length (hdr ct : List Byte) (s : State) : (s.plaintext hdr ct).length = ct.length :=
  xcrypt_length _ _

theorem encodeAt_next {src n dst : Nat} :
    encodeAt src n dst s = .next t ↔
      ∃ pt, s.bufBytes src n = some pt ∧ dst + (8 + n) ≤ s.cfg.bufSize ∧ t = s.encoded pt dst := by
  unfold encodeAt
  rw [withBuf_next]
  refine exists_congr fun pt => and_congr_right fun h => ?_
  have hl := State.bufBytes_length h
  rw [writeBuf_next]
  simp [State.encoded, hl]

theorem encodeAt_of_ok {src n dst : Nat} {pt : List Byte} (h : s.bufBytes src n = some pt)
    (hd : dst + (8 + n) ≤ s.cfg.bufSize) : encodeAt src n dst s = .next (s.encoded pt dst) :=
  encodeAt_next.mpr ⟨pt, h, hd, rfl⟩

theorem decodeAt_short {src n dst : Nat} (h : n ≤ 8) : decodeAt src n dst s = .next (s, none) := by
  simp [decodeAt, h]

theorem decodeAt_next {src n dst : Nat} {r : State × Option (List Byte)} (h : 8 < n) :
    decodeAt src n dst s = .next r ↔
      ∃ hdr ct, s.bufBytes src 8 = some hdr ∧ s.bufBytes (src + 8) (n - 8) = some ct ∧
        dst + (n - 8 + 1) ≤ s.cfg.bufSize ∧ r = (s.decoded hdr ct dst, some (s.plaintext hdr ct)) := by
  unfold decodeAt
  rw [if_neg (by omega), withBuf_next]
  refine exists_congr fun hdr => ?_
  rw [withBuf_next, ← exists_and_left]
  refine exists_congr fun ct => and_congr_right fun _ => and_congr_right fun hc => ?_
  have hl := State.bufBytes_length hc
  rw [andThen_next]
  simp only [writeBuf_next]
  constructor
  · rintro ⟨a, ⟨ha, rfl⟩, hr⟩
    simp only [List.length_append, xcrypt_length, hl, List.length_singleton] at ha
    exact ⟨ha, by simpa [State.decoded, State.plaintext, eq_comm] using hr⟩
  · rintro ⟨ha, rfl⟩
    exact ⟨_, ⟨by simpa [hl] using ha, rfl⟩, rfl⟩

theorem execNop_next : execNop s = .next t ↔ t = s := by simp [execNop, eq_comm]

theorem withKey_next {sel : KeySel} {use : List Byte → Result} :
    withKey sel s use = .next t ↔
      ∃ key, (sel = .psk ∧ key = s.key.toList ∨ sel = .buf ∧ s.bufBytes s.src.toNat 32 = some key) ∧ use key = .next t := by
  cases sel <;> simp [withKey, withBuf_next]

theorem withNonce_next {sel : NonceSel} {offset : Half} {use : List Byte → Result} :
    withNonce sel offset s use = .next t ↔
      ∃ n, (sel = .nonce ∧ n = s.nonce.toList ∨ sel = .buf ∧ s.bufBytes offset.toNat 8 = some n) ∧ use n = .next t := by
  cases sel <;> simp [withNonce, withBuf_next]

theorem execKeysetup_next {sel : KeySel} (h : execKeysetup sel s = .next t) :
    (∃ e, t = s.takeError 0x01 e) ∨ ∃ key, t = s.keySetup key := by
  rcases guarded_next.mp h with ⟨e, -, rfl⟩ | ⟨-, h⟩
  · exact .inl ⟨e, rfl⟩
  · obtain ⟨key, -, h⟩ := withKey_next.mp h
    exact .inr ⟨key, by simpa [eq_comm] using h⟩

theorem execIvsetup_next {sel : NonceSel} (h : execIvsetup sel s = .next t) :
    (∃ e, t = s.takeError 0x02 e) ∨ (s.csStage ≠ .empty ∧ ∃ n, t = s.ivSetup n) := by
  rcases guarded_next.mp h with ⟨e, -, rfl⟩ | ⟨hc, h⟩
  · exact .inl ⟨e, rfl⟩
  · obtain ⟨n, -, h⟩ := withNonce_next.mp h
    refine .inr ⟨fun he => by simp [he] at hc, n, by simpa [eq_comm] using h⟩

theorem execGenblock_next (h : execGenblock s = .next t) :
    (∃ e, t = s.takeError 0x03 e) ∨
      (s.dst.toNat + 64 ≤ s.cfg.bufSize ∧ t = s.putBuf s.dst.toNat (salsa20Block s.cs)) := by
  rcases guarded_next.mp h with ⟨e, -, rfl⟩ | ⟨-, h⟩
  · exact .inl ⟨e, rfl⟩
  · rw [writeBuf_next] at h
    simpa using Or.inr h

theorem execXcrypt_next {len : Nat} (h : execXcrypt len s = .next t) :
    (∃ e, t = s.takeError 0x04 e) ∨
      ∃ input, s.bufBytes s.src.toNat len = some input ∧ s.dst.toNat + len ≤ s.cfg.bufSize ∧ s.csStage = .ready ∧
        t = (s.putBuf s.dst.toNat (xcrypt s.cfg.ctrMode s.cs input).1).setCs (xcrypt s.cfg.ctrMode s.cs input).2 := by
  rcases guarded_next.mp h with ⟨e, -, rfl⟩ | ⟨hc, h⟩
  · exact .inl ⟨e, rfl⟩
  · obtain ⟨input, hi, h⟩ := withBuf_next.mp h
    obtain ⟨u, hu, h⟩ := andThen_next.mp h
    obtain ⟨hb, rfl⟩ := writeBuf_next.mp hu
    have hr : s.csStage = .ready := by by_contra hne; simp [hne] at hc
    have hl := State.bufBytes_length hi
    exact .inr ⟨input, hi, by simpa [hl] using hb, hr, by simpa [eq_comm] using h⟩

theorem execKsLoad_next : execKsLoad s = .next t ↔ t = s.load := by simp [execKsLoad, eq_comm]

theorem execKsVerify_next (h : execKsVerify s = .next t) :
    (∃ e, t = s.takeError 0x11 e) ∨ ∃ v, t = s.setResult v := by
  rcases guarded_next.mp h with ⟨e, -, rfl⟩ | ⟨-, h⟩
  · exact .inl ⟨e, rfl⟩
  · obtain ⟨key, -, h⟩ := withBuf_next.mp h
    exact .inr ⟨_, by simpa [eq_comm] using h⟩

theorem execKsStore_next (h : execKsStore s = .next t) :
    (∃ e, t = s.takeError 0x12 e) ∨ (s.pskStatus = .valid ∧ t = s.storeSeq s.key.toList) := by
  rcases guarded_next.mp h with ⟨e, -, rfl⟩ | ⟨hc, h⟩
  · exact .inl ⟨e, rfl⟩
  · exact .inr ⟨by by_contra hne; simp [hne] at hc, by simpa [eq_comm] using h⟩

theorem execKsInitdef_next (h : execKsInitdef s = .next t) :
    (∃ e, t = s.takeError 0x13 e) ∨ (s.pskStatus = .invalid ∧ t = s.initDefault) := by
  rcases guarded_next.mp h with ⟨e, -, rfl⟩ | ⟨hc, h⟩
  · exact .inl ⟨e, rfl⟩
  · exact .inr ⟨by by_contra hne; simp [hne] at hc, by simpa [eq_comm] using h⟩

theorem execNonceInc_next {sel : NonceSel} (h : execNonceInc sel s = .next t) :
    (∃ e, t = s.takeError 0x20 e) ∨ (sel = .nonce ∧ t = s.incNonce) ∨
      (sel = .buf ∧ ∃ n, s.bufBytes s.dst.toNat 8 = some n ∧ s.dst.toNat + 8 ≤ s.cfg.bufSize ∧
        t = s.putBuf s.dst.toNat (incBytes n)) := by
  rcases guarded_next.mp h with ⟨e, -, rfl⟩ | ⟨-, h⟩
  · exact .inl ⟨e, rfl⟩
  · cases sel with
    | nonce => exact .inr (.inl ⟨rfl, by simpa [eq_comm] using h⟩)
    | buf =>
      obtain ⟨n, hn, h⟩ := withBuf_next.mp h
      obtain ⟨hb, rfl⟩ := writeBuf_next.mp h
      have hl := State.bufBytes_length hn
      exact .inr (.inr ⟨rfl, n, hn, by simpa [hl] using hb, rfl⟩)

theorem execNonceCmp_next {sel : NonceSel} (h : execNonceCmp sel s = .next t) :
    (∃ e, t = s.takeError 0x21 e) ∨ ∃ v, t = s.setResult v := by
  rcases guarded_next.mp h with ⟨e, -, rfl⟩ | ⟨-, h⟩
  · exact .inl ⟨e, rfl⟩
  · obtain ⟨a, -, h⟩ := withBuf_next.mp h
    obtain ⟨b, -, h⟩ := withNonce_next.mp h
    exact .inr ⟨_, by simpa [eq_comm] using h⟩

theorem execResync_next (h : execResync s = .next t) :
    (∃ e, t = s.takeError 0x22 e) ∨ ∃ peer v, t = (s.resync peer).setResult v := by
  rcases guarded_next.mp h with ⟨e, -, rfl⟩ | ⟨-, h⟩
  · exact .inl ⟨e, rfl⟩
  · obtain ⟨peer, -, h⟩ := withBuf_next.mp h
    exact .inr ⟨peer, _, by simpa [eq_comm] using h⟩

theorem execEncode_next {len : Nat} (h : execEncode len s = .next t) :
    (∃ e, t = s.takeError 0x30 e) ∨
      ∃ pt v, s.bufBytes s.src.toNat len = some pt ∧ s.dst.toNat + (8 + len) ≤ s.cfg.bufSize ∧
        t = (s.encoded pt s.dst.toNat).setResult v := by
  rcases guarded_next.mp h with ⟨e, -, rfl⟩ | ⟨-, h⟩
  · exact .inl ⟨e, rfl⟩
  · obtain ⟨u, hu, h⟩ := andThen_next.mp h
    obtain ⟨pt, hp, hb, rfl⟩ := encodeAt_next.mp hu
    exact .inr ⟨pt, _, hp, hb, by simpa [eq_comm] using h⟩

theorem execDecode_next {len : Nat} (h : execDecode len s = .next t) :
    (∃ e, t = s.takeError 0x31 e) ∨ (len ≤ 8 ∧ ∃ v, t = s.setResult v) ∨
      (8 < len ∧ ∃ hdr ct v, ct.length = len - 8 ∧ s.dst.toNat + (len - 8 + 1) ≤ s.cfg.bufSize ∧
        t = (s.decoded hdr ct s.dst.toNat).setResult v) := by
  rcases guarded_next.mp h with ⟨e, -, rfl⟩ | ⟨-, h⟩
  · exact .inl ⟨e, rfl⟩
  · obtain ⟨r, hr, h⟩ := andThen_next.mp h
    by_cases hn : len ≤ 8
    · rw [decodeAt_short hn] at hr
      injection hr with hr
      subst hr
      exact .inr (.inl ⟨hn, _, by simpa [eq_comm] using h⟩)
    · obtain ⟨hdr, ct, -, hc, hb, rfl⟩ := (decodeAt_next (by omega)).mp hr
      exact .inr (.inr ⟨by omega, hdr, ct, _, State.bufBytes_length hc, hb, by simpa [eq_comm] using h⟩)

/-- The three outcomes of a flush (44_session R240). -/
theorem flush_next (h : flush s = .next t) :
    t = State.emit (.notice .pskNotValid) { s with inlen := 0 } ∨
    t = State.emit (.notice .sendSuppressed) { s with inlen := 0 } ∨
      (s.pskStatus = .valid ∧ s.sendPending = false ∧
        ∃ pt, s.bufBytes s.cfg.inBase s.inlen.toNat = some pt ∧ s.cfg.txBase + (8 + s.inlen.toNat) ≤ s.cfg.bufSize ∧
          t = (s.encoded pt s.cfg.txBase).sent s.inlen.toNat) := by
  unfold flush at h
  split at h
  · exact .inl (by simpa [eq_comm] using h)
  · split at h
    · exact .inr (.inl (by simpa [eq_comm] using h))
    · next h1 h2 =>
      obtain ⟨u, hu, h⟩ := andThen_next.mp h
      obtain ⟨pt, hp, hb, rfl⟩ := encodeAt_next.mp hu
      exact .inr (.inr ⟨by simpa using h1, by simpa using h2, pt, hp, hb, by simpa [eq_comm] using h⟩)

/-- An appended byte (44_session R238): `BUF[IN_BASE + INLEN] <- b; INLEN <- INLEN + 1`. -/
def State.appended (b : Byte) (s : State) : State :=
  { s.putBuf (s.cfg.inBase + s.inlen.toNat) [b] with inlen := s.inlen + 1 }

theorem senderAppend_next {b : Byte} (h : senderAppend b s = .next t) :
    s.cfg.inBase + s.inlen.toNat + 1 ≤ s.cfg.bufSize ∧
      if (s.inlen + 1).toNat = s.cfg.incap then
        flush ((s.appended b).emit (.notice .inputOverflowFlushed)) = .next t
      else t = s.appended b := by
  obtain ⟨u, hu, h⟩ := andThen_next.mp h
  obtain ⟨hb, rfl⟩ := writeBuf_next.mp hu
  refine ⟨by simpa using hb, ?_⟩
  change (if (s.inlen + 1).toNat = s.cfg.incap then
    flush ((s.appended b).emit (.notice .inputOverflowFlushed)) else .next (s.appended b)) = .next t at h
  by_cases hi : (s.inlen + 1).toNat = s.cfg.incap
  · rw [if_pos hi] at h ⊢
    exact h
  · rw [if_neg hi] at h ⊢
    simpa [eq_comm] using h

theorem senderByte_next {b : Byte} (h : senderByte b s = .next t) :
    (isPrintable b = true ∧ senderAppend b s = .next t) ∨ flush s = .next t ∨ t = s := by
  unfold senderByte at h
  split at h
  · next hp => exact .inl ⟨hp, h⟩
  · split at h
    · unfold senderSubmit at h
      split at h
      · exact .inr (.inl h)
      · exact .inr (.inr (by simpa [eq_comm] using h))
    · exact .inr (.inr (by simpa [eq_comm] using h))

theorem execSesByte_next {b : Byte} (h : execSesByte b s = .next t) :
    (s.session = .initial ∧ ∃ e, t = s.takeError 0x40 e) ∨
    (s.session = .modeSelection ∧ t = modesel b s) ∨
    (s.session = .operating ∧
      ((s.switchesMode b = true ∧ t = s.promptMode) ∨
       (s.switchesMode b = false ∧
        ((s.mode = .listener ∧ t = listenerByte b s) ∨ (s.mode = .none ∧ t = s) ∨
         (s.mode = .sender ∧ senderByte b s = .next t))))) := by
  rcases guarded_next.mp h with ⟨e, he, rfl⟩ | ⟨hc, h⟩
  · refine .inl ⟨?_, e, rfl⟩
    by_contra hne
    simp [hne] at he
  · have hne : s.session ≠ .initial := fun he => by simp [he] at hc
    split at h
    · next hm => exact .inr (.inl ⟨hm, by simpa [eq_comm] using h⟩)
    · next hm =>
      have ho : s.session = .operating := by cases hs : s.session <;> simp_all
      refine .inr (.inr ⟨ho, ?_⟩)
      unfold operatingByte at h
      split at h
      · next hs => exact .inl ⟨hs, by simpa [eq_comm] using h⟩
      · next hs =>
        refine .inr ⟨by simpa using hs, ?_⟩
        split at h
        · next hmode => exact .inl ⟨hmode, by simpa [eq_comm] using h⟩
        · next hmode => exact .inr (.inr ⟨hmode, h⟩)
        · next hmode => exact .inr (.inl ⟨hmode, by simpa [eq_comm] using h⟩)

/-- The end of the receive path (44_session R245): `PTLEN`, the display, the resync, the status line. -/
def State.received (hdr pt : List Byte) (len : Nat) (s : State) : State :=
  (State.resync hdr (State.emit (.display (sanitize pt)) { s with ptlen := BitVec.ofNat 16 (len - 8) })).emit
    (.notice .statusListening)

theorem receive_next {len : Nat} (h : receive len s = .next t) :
    (len ≤ 8 ∧ t = s.emit (.notice .frameTooShort)) ∨
    (8 < len ∧ ∃ hdr ct, s.bufBytes s.cfg.rxBase 8 = some hdr ∧ s.bufBytes (s.cfg.rxBase + 8) (len - 8) = some ct ∧
      s.cfg.ptBase + (len - 8 + 1) ≤ s.cfg.bufSize ∧
      t = (s.decoded hdr ct s.cfg.ptBase).received hdr (s.plaintext hdr ct) len) := by
  unfold receive at h
  split at h
  · next hl => exact .inl ⟨hl, by simpa [eq_comm] using h⟩
  · next hl =>
    obtain ⟨hdr, hh, h⟩ := withBuf_next.mp h
    obtain ⟨r, hr, h⟩ := andThen_next.mp h
    obtain ⟨hdr', ct, hh', hc, hb, rfl⟩ := (decodeAt_next (by omega)).mp hr
    obtain rfl : hdr' = hdr := by simpa [hh] using hh'.symm
    exact .inr ⟨by omega, hdr', ct, hh, hc, hb, by simpa [State.received, eq_comm] using h⟩

theorem execSesRx_next {len : Nat} (h : execSesRx len s = .next t) :
    (∃ e, t = s.takeError 0x41 e) ∨
    (s.session ≠ .initial ∧ len ≤ s.cfg.maxPayload ∧
      ((s.handlesFrames = false ∧ t = s.setResult (boolResult false)) ∨
       (s.handlesFrames = true ∧ receive len (s.setResult (boolResult true)) = .next t))) := by
  rcases guarded_next.mp h with ⟨e, -, rfl⟩ | ⟨hc, h⟩
  · exact .inl ⟨e, rfl⟩
  · simp only [firstError_cons, firstError_nil] at hc
    have hs : s.session ≠ .initial := fun he => by simp [he] at hc
    have hl : len ≤ s.cfg.maxPayload := by
      by_contra hlt
      simp [hs, Nat.lt_of_not_le hlt] at hc
    refine .inr ⟨hs, hl, ?_⟩
    split at h
    · next hf => exact .inr ⟨hf, h⟩
    · next hf => exact .inl ⟨by simpa using hf, by simpa [eq_comm] using h⟩

theorem execSesConfirm_next {k : Confirmation} (h : execSesConfirm k s = .next t) :
    (∃ e, t = s.takeError 0x42 e) ∨ t = s ∨
      (s.sendPending = true ∧ t = { s with sendPending := false, confFail := k = .fail }) := by
  rcases guarded_next.mp h with ⟨e, -, rfl⟩ | ⟨-, h⟩
  · exact .inl ⟨e, rfl⟩
  · injection h with h
    split at h
    · next hp => exact .inr (.inr ⟨hp, h.symm⟩)
    · exact .inr (.inl h.symm)

theorem execSesTick_next (h : execSesTick s = .next t) :
    (∃ e, t = s.takeError 0x43 e) ∨ t = s ∨ (s.session = .operating ∧ s.mode = .none ∧ t = s.promptMode) := by
  rcases guarded_next.mp h with ⟨e, -, rfl⟩ | ⟨-, h⟩
  · exact .inl ⟨e, rfl⟩
  · injection h with h
    split at h
    · next hm => exact .inr (.inr ⟨hm.1, hm.2, h.symm⟩)
    · exact .inr (.inl h.symm)

end Sys2Proof.Machine
end

