-- ==== Sys2Proof/Laws/Decode.lean ====
section
/-! SUPPORT. The fields of a command word, and what each kind of row decodes. -/

namespace Sys2Proof

theorem commandWord_getLsbD (op arg : Byte) (len : Half) (i : Nat) :
    (commandWord op arg len).getLsbD i =
      if i < 16 then len.getLsbD i else if i < 24 then arg.getLsbD (i - 16) else op.getLsbD (i - 24) := by
  have h1 := BitVec.getLsbD_append (x := op ++ arg) (y := len) (i := i)
  have h2 := BitVec.getLsbD_append (x := op) (y := arg) (i := i - 16)
  rw [h2] at h1
  refine h1.trans ?_
  split
  · simp [*]
  · split
    · rw [if_pos (by omega)]
    · rw [if_neg (by omega), Nat.sub_sub]

@[simp] theorem opField_commandWord (op arg : Byte) (len : Half) : opField (commandWord op arg len) = op := by
  apply BitVec.eq_of_getLsbD_eq
  intro i hi
  rw [opField, BitVec.getLsbD_extractLsb', commandWord_getLsbD, if_neg (by omega), if_neg (by omega)]
  simp [hi]

@[simp] theorem argField_commandWord (op arg : Byte) (len : Half) : argField (commandWord op arg len) = arg := by
  apply BitVec.eq_of_getLsbD_eq
  intro i hi
  rw [argField, BitVec.getLsbD_extractLsb', commandWord_getLsbD, if_neg (by omega), if_pos (by omega)]
  simp [hi]

@[simp] theorem lenField_commandWord (op arg : Byte) (len : Half) : lenField (commandWord op arg len) = len := by
  apply BitVec.eq_of_getLsbD_eq
  intro i hi
  rw [lenField, BitVec.getLsbD_extractLsb', commandWord_getLsbD, if_pos (by omega)]
  simp [hi]

/-- A word is its three fields (30_encoding R111). -/
theorem commandWord_fields (w : Word) : commandWord (opField w) (argField w) (lenField w) = w := by
  apply BitVec.eq_of_getLsbD_eq
  intro i hi
  simp only [commandWord_getLsbD, opField, argField, lenField, BitVec.getLsbD_extractLsb']
  split
  · simp [*]
  · split
    · simp [show i - 16 < 8 by omega, show 16 + (i - 16) = i by omega]
    · simp [show i - 24 < 8 by omega, show 24 + (i - 24) = i by omega]

theorem commandWord_inj {a b c d : Byte} {e f : Half} :
    commandWord a c e = commandWord b d f ↔ a = b ∧ c = d ∧ e = f := by
  constructor
  · intro h
    have h1 := congrArg opField h
    have h2 := congrArg argField h
    have h3 := congrArg lenField h
    simp only [opField_commandWord, argField_commandWord, lenField_commandWord] at h1 h2 h3
    exact ⟨h1, h2, h3⟩
  · rintro ⟨rfl, rfl, rfl⟩
    rfl

/-- A word as its fields shifted into place. -/
theorem commandWord_eq_or (op arg : Byte) (len : Half) :
    commandWord op arg len = (op.setWidth 32 <<< 24) ||| (arg.setWidth 32 <<< 16) ||| len.setWidth 32 := by
  apply BitVec.eq_of_getLsbD_eq
  intro i hi
  rw [commandWord_getLsbD]
  by_cases h1 : i < 16
  · simp [h1, hi, show i < 24 by omega]
  · by_cases h2 : i < 24
    · have h3 : len.getLsbD i = false := BitVec.getLsbD_of_ge _ _ (by omega)
      simp [h1, h2, hi, h3]
    · have h3 : len.getLsbD i = false := BitVec.getLsbD_of_ge _ _ (by omega)
      have h4 : arg.getLsbD (i - 16) = false := BitVec.getLsbD_of_ge _ _ (by omega)
      simp [h1, h2, hi, h3, h4]

variable {arg : Byte} {len : Half} {j : Instr}

theorem decodePlain_ok {i : Instr} (h : decodePlain arg len i = .ok j) : j = i ∧ arg = 0 ∧ len = 0 := by
  unfold decodePlain at h
  split at h <;> simp_all

theorem decodeSelect_ok {f : Bool → Instr} (h : decodeSelect arg len f = .ok j) :
    len = 0 ∧ ((arg = 0 ∧ j = f false) ∨ (arg = 1 ∧ j = f true)) := by
  unfold decodeSelect selector at h
  split at h <;> [skip; cases h]
  split at h <;> [skip; cases h]
  rename_i h1 h2
  split at h1
  · simp_all
  · split at h1 <;> simp_all

theorem decodeLen_ok {f : Nat → Instr} (h : decodeLen arg len f = .ok j) : arg = 0 ∧ j = f len.toNat := by
  unfold decodeLen at h
  split at h <;> simp_all

theorem decodeByte_ok {f : Byte → Instr} (h : decodeByte arg len f = .ok j) : len = 0 ∧ j = f arg := by
  unfold decodeByte at h
  split at h <;> simp_all

/-- A word that decodes gives a well-formed command that has the word's fields. -/
theorem decode_fields {w : Word} {i : Instr} (h : decode w = .ok i) :
    i.wellFormed = true ∧ i.opcode = opField w ∧ i.arg = argField w ∧ i.len = (lenField w).toNat := by
  unfold decode at h
  simp only at h
  have e : ∀ n, (opField w).toNat = n → opField w = BitVec.ofNat 8 n := fun n h => by rw [← h]; simp
  split at h
  case h_19 => cases h
  all_goals
    rename_i ho
    have ho := e _ ho
  all_goals first
    | (obtain ⟨rfl, h1, h2⟩ := decodePlain_ok h
       simp [Instr.wellFormed, Instr.opcode, Instr.arg, Instr.len, *])
    | (obtain ⟨h1, rfl⟩ := decodeLen_ok h
       simp [Instr.wellFormed, Instr.opcode, Instr.arg, Instr.len, *, Instr.lenFits]
       exact (lenField w).isLt)
    | (obtain ⟨h1, rfl⟩ := decodeByte_ok h
       simp [Instr.wellFormed, Instr.opcode, Instr.arg, Instr.len, *])
    | (obtain ⟨h1, ⟨h2, rfl⟩ | ⟨h2, rfl⟩⟩ := decodeSelect_ok h <;>
       simp [Instr.wellFormed, Instr.opcode, Instr.arg, Instr.len, *, KeySel.arg, NonceSel.arg, Confirmation.arg,
         KeySel.ofBit, NonceSel.ofBit, Confirmation.ofBit])

/-! The rows of 30_encoding R114 in terms of the fields. -/

theorem commandWord_and (a b c d : Byte) (e f : Half) :
    commandWord a b e &&& commandWord c d f = commandWord (a &&& c) (b &&& d) (e &&& f) := by
  apply BitVec.eq_of_getLsbD_eq
  intro i hi
  simp only [BitVec.getLsbD_and, commandWord_getLsbD]
  split <;> [skip; split] <;> rfl

theorem word_and_eq {w : Word} {op mo ma xa : Byte} {ml xl : Half} :
    w &&& commandWord mo ma ml = commandWord op xa xl ↔
      opField w &&& mo = op ∧ argField w &&& ma = xa ∧ lenField w &&& ml = xl := by
  conv_lhs => rw [← commandWord_fields w, commandWord_and]
  exact commandWord_inj

theorem byte_and_all (a : Byte) : a &&& 0xFF = a := BitVec.and_allOnes
theorem half_and_all (a : Half) : a &&& 0xFFFF = a := BitVec.and_allOnes
theorem byte_and_select (a : Byte) : a &&& 0xFE = 0 ↔ a = 0 ∨ a = 1 := by revert a; decide

variable {w : Word} {op : Byte}

theorem row_plain : w &&& 0xFFFFFFFF = commandWord op 0 0 ↔ opField w = op ∧ argField w = 0 ∧ lenField w = 0 := by
  rw [show (0xFFFFFFFF : Word) = commandWord 0xFF 0xFF 0xFFFF by decide, word_and_eq, byte_and_all, byte_and_all,
    half_and_all]

theorem row_select :
    w &&& 0xFFFEFFFF = commandWord op 0 0 ↔ opField w = op ∧ (argField w = 0 ∨ argField w = 1) ∧ lenField w = 0 := by
  rw [show (0xFFFEFFFF : Word) = commandWord 0xFF 0xFE 0xFFFF by decide, word_and_eq, byte_and_all, byte_and_select,
    half_and_all]

theorem row_len : w &&& 0xFFFF0000 = commandWord op 0 0 ↔ opField w = op ∧ argField w = 0 := by
  rw [show (0xFFFF0000 : Word) = commandWord 0xFF 0xFF 0 by decide, word_and_eq, byte_and_all, byte_and_all]
  simp

theorem row_byte : w &&& 0xFF00FFFF = commandWord op 0 0 ↔ opField w = op ∧ lenField w = 0 := by
  rw [show (0xFF00FFFF : Word) = commandWord 0xFF 0x00 0xFFFF by decide, word_and_eq, byte_and_all, half_and_all]
  simp

end Sys2Proof
end

