-- ==== Sys2Proof/Laws/Effects.lean ====
section
/-! SUPPORT. Each effect as one record update: which fields it writes, every other field being the old one. A proof about a
field rewrites with these and is then done by `rfl`. -/

namespace Sys2Proof.Machine

variable (s : State)

theorem State.putBuf_eq (a : Nat) (bs : List Byte) : s.putBuf a bs = { s with buf := (s.putBuf a bs).buf } := rfl

theorem State.encoded_eq (pt : List Byte) (dst : Nat) :
    s.encoded pt dst =
      { s with
        buf := (s.encoded pt dst).buf
        cs := (ctrAdvance s.cfg.ctrMode)^[(pt.length + 63) / 64] (ivWords s.nonce.toList (keyWords s.key.toList s.cs))
        csStage := .ready } := by
  have h : (s.encoded pt dst).cs =
      (ctrAdvance s.cfg.ctrMode)^[(pt.length + 63) / 64] (ivWords s.nonce.toList (keyWords s.key.toList s.cs)) :=
    xcrypt_state _ _
  rw [← h]
  rfl

theorem State.decoded_eq (hdr ct : List Byte) (dst : Nat) :
    s.decoded hdr ct dst =
      { s with
        buf := (s.decoded hdr ct dst).buf
        cs := (ctrAdvance s.cfg.ctrMode)^[(ct.length + 63) / 64] (ivWords hdr (keyWords s.key.toList s.cs))
        csStage := .ready } := by
  have h : (s.decoded hdr ct dst).cs =
      (ctrAdvance s.cfg.ctrMode)^[(ct.length + 63) / 64] (ivWords hdr (keyWords s.key.toList s.cs)) :=
    xcrypt_state _ _
  rw [← h]
  rfl

theorem State.incNonce_eq : s.incNonce = { s with nonce := s.incNonce.nonce } := rfl

theorem State.resync_eq (p : List Byte) : s.resync p = { s with nonce := (s.resync p).nonce } := by
  unfold State.resync
  split <;> rfl

theorem State.resync_nonce (p : List Byte) :
    (s.resync p).nonce = if compareBytes p s.nonce.toList = .gt then toBytes 8 (incBytes p) else s.nonce := by
  unfold State.resync State.adopts
  by_cases h : compareBytes p s.nonce.toList = .gt <;> simp [h, State.setNonce]

theorem State.resync_nonce_congr {u : State} (p : List Byte) (h : s.nonce = u.nonce) :
    (s.resync p).nonce = (u.resync p).nonce := by
  rw [State.resync_nonce, State.resync_nonce, h]

theorem State.sent_eq (n : Nat) :
    s.sent n =
      { s with
        inlen := 0, txlen := BitVec.ofNat 16 (8 + n), nonce := s.incNonce.nonce, sendPending := true
        events := s.events ++
          [.send s.cfg.listenerAddr s.cfg.srcEp s.cfg.dstEp s.cfg.txOptions (BitVec.ofNat 16 (8 + n))] } := rfl

theorem State.received_eq (hdr pt : List Byte) (len : Nat) :
    s.received hdr pt len =
      { s with
        ptlen := BitVec.ofNat 16 (len - 8), nonce := (s.resync hdr).nonce
        events := s.events ++ [.display (sanitize pt), .notice .statusListening] } := by
  unfold State.received
  rw [State.resync_eq]
  simp only [State.emit, List.append_assoc, List.singleton_append]
  rw [State.resync_nonce_congr _ (u := s) hdr]
  rfl

theorem State.load_eq :
    s.load = { s with key := s.load.key, pskStatus := s.loadOutcome, result := keystoreResult s.loadOutcome } := rfl

/-- `store_seq` (41_keystore R170): the NVM writes in order, as one memory update and one extension of the log. -/
theorem State.storeSeq_eq (key : List Byte) :
    s.storeSeq key =
      { s with
        nvm := Memory.write Memory.nvmBlank
          (Memory.write Memory.nvmBlank (Memory.writeBytes Memory.nvmBlank s.nvm s.cfg.nvmKeyAddr key)
            (s.cfg.nvmKeyAddr + 32) (xor8 key))
          s.cfg.nvmMarkerAddr s.cfg.markerValue
        nvmLog := s.nvmLog ++ (key.zipIdx s.cfg.nvmKeyAddr).map (fun x => (x.2, x.1)) ++
          [(s.cfg.nvmKeyAddr + 32, xor8 key), (s.cfg.nvmMarkerAddr, s.cfg.markerValue)] } := by
  unfold State.storeSeq
  rw [State.nvmWrites_eq]
  simp [State.nvmWrite, List.append_assoc]

theorem State.initDefault_eq :
    s.initDefault =
      { s with
        key := s.cfg.defaultPsk, pskStatus := .valid, nvm := s.initDefault.nvm, nvmLog := s.initDefault.nvmLog } := by
  unfold State.initDefault
  rw [State.storeSeq_eq]

theorem State.bootKey_eq :
    s.bootKey =
      { s with
        key := s.bootKey.key, pskStatus := s.bootKey.pskStatus, result := keystoreResult s.loadOutcome
        nvm := s.bootKey.nvm, nvmLog := s.bootKey.nvmLog, events := s.bootKey.events } := by
  unfold State.bootKey
  simp only
  split
  · unfold State.initDefault
    rw [State.storeSeq_eq]
    rfl
  · rfl
  · rfl

/-- What every NVM byte holds after `store_seq` of 32 bytes, for an admissible configuration. -/
theorem State.nvmByte_storeSeq (key : List Byte) (hk : key.length = 32) (a : Nat) :
    (s.storeSeq key).nvmByte a =
      if a = s.cfg.nvmMarkerAddr then s.cfg.markerValue
      else if a = s.cfg.nvmKeyAddr + 32 then xor8 key
      else if s.cfg.nvmKeyAddr ≤ a ∧ a < s.cfg.nvmKeyAddr + 32 then key.getD (a - s.cfg.nvmKeyAddr) 0
      else s.nvmByte a := by
  unfold State.storeSeq
  rw [State.nvmByte_nvmWrite, State.nvmByte_nvmWrite, State.nvmWrites_eq, State.nvmByte_writeBytes]
  simp [hk]

end Sys2Proof.Machine
end

