-- ==== Sys2Proof/Laws/Session.lean ====
section
/-! SUPPORT. Everything SES_BYTE and a flush can do, case by case. -/

namespace Sys2Proof.Machine

/-- The three ways a flush ends (44_session R240). -/
inductive Flushed (u t : State) : Prop
  | aborted (h : t = State.emit (.notice .pskNotValid) { u with inlen := 0 })
  | suppressed (h : t = State.emit (.notice .sendSuppressed) { u with inlen := 0 })
  | sent (pt : List Byte) (hpsk : u.pskStatus = .valid) (hpending : u.sendPending = false)
      (hread : u.bufBytes u.cfg.inBase u.inlen.toNat = some pt)
      (hfits : u.cfg.txBase + (8 + u.inlen.toNat) ≤ u.cfg.bufSize)
      (h : t = (u.encoded pt u.cfg.txBase).sent u.inlen.toNat)

theorem flush_flushed {u t : State} (h : flush u = .next t) : Flushed u t := by
  rcases flush_next h with h | h | ⟨h1, h2, pt, h3, h4, h⟩
  · exact .aborted h
  · exact .suppressed h
  · exact .sent pt h1 h2 h3 h4 h

/-- Every field a flush leaves as it was. -/
theorem Flushed.eq {u t : State} (h : Flushed u t) :
    t = { u with
      inlen := 0, buf := t.buf, cs := t.cs, csStage := t.csStage, txlen := t.txlen, nonce := t.nonce
      sendPending := t.sendPending, events := t.events } := by
  cases h with
  | aborted h => subst h; rfl
  | suppressed h => subst h; rfl
  | sent pt h1 h2 h3 h4 h =>
    rw [h, State.sent_eq, State.encoded_eq]

theorem modesel_cases (b : Byte) (s : State) :
    (b = 0x31 ∧ modesel b s = s.selectMode .sender s.cfg.senderAddr .modeSender) ∨
    (b = 0x32 ∧ modesel b s = s.selectMode .listener s.cfg.listenerAddr .statusListening) ∨
    modesel b s = s ∨ modesel b s = s.emit (.notice .invalidInput) := by
  unfold modesel
  split
  · exact .inl ⟨‹_›, rfl⟩
  · split
    · exact .inr (.inl ⟨‹_›, rfl⟩)
    · split
      · exact .inr (.inr (.inl rfl))
      · exact .inr (.inr (.inr rfl))

/-- The ways SES_BYTE ends (44_session R232 to R242). -/
inductive ByteEffect (b : Byte) (s t : State) : Prop
  | error (e : CmdErr) (hs : s.session = .initial) (h : t = s.takeError 0x40 e)
  | sender (hs : s.session = .modeSelection) (hb : b = 0x31)
      (h : t = s.selectMode .sender s.cfg.senderAddr .modeSender)
  | listener (hs : s.session = .modeSelection) (hb : b = 0x32)
      (h : t = s.selectMode .listener s.cfg.listenerAddr .statusListening)
  | same (h : t = s)
  | invalid (h : t = s.emit (.notice .invalidInput))
  | prompt (hs : s.session = .operating) (hb : (b = 0x4D ∨ b = 0x6D) ∧ s.inlen = 0) (h : t = s.promptMode)
  | redisplay (h : t = s.emit (.notice .statusListening))
  | appended (hs : s.session = .operating) (hfits : s.cfg.inBase + s.inlen.toNat + 1 ≤ s.cfg.bufSize)
      (hroom : (s.inlen + 1).toNat ≠ s.cfg.incap) (h : t = s.appended b)
  | overflow (hs : s.session = .operating) (hfits : s.cfg.inBase + s.inlen.toNat + 1 ≤ s.cfg.bufSize)
      (hfull : (s.inlen + 1).toNat = s.cfg.incap)
      (h : Flushed ((s.appended b).emit (.notice .inputOverflowFlushed)) t)
  | submit (hs : s.session = .operating) (h : Flushed s t)

theorem execSesByte_effect {b : Byte} {s t : State} (h : execSesByte b s = .next t) : ByteEffect b s t := by
  rcases execSesByte_next h with ⟨h0, e, h⟩ | ⟨h0, h⟩ | ⟨h0, h⟩
  · exact .error e h0 h
  · rcases modesel_cases b s with ⟨hb, e⟩ | ⟨hb, e⟩ | e | e <;> rw [e] at h
    · exact .sender h0 hb h
    · exact .listener h0 hb h
    · exact .same h
    · exact .invalid h
  · rcases h with ⟨hs, h⟩ | ⟨hs, ⟨-, h⟩ | ⟨-, h⟩ | ⟨-, h⟩⟩
    · exact .prompt h0 (by simpa [State.switchesMode] using hs) h
    · unfold listenerByte at h
      split at h
      · exact .redisplay h
      · exact .same h
    · exact .same h
    · rcases senderByte_next h with ⟨-, h⟩ | h | h
      · obtain ⟨hb, h⟩ := senderAppend_next h
        split at h
        · next hi => exact .overflow h0 hb hi (flush_flushed h)
        · next hi => exact .appended h0 hb hi h
      · exact .submit h0 (flush_flushed h)
      · exact .same h

end Sys2Proof.Machine
end

