-- ==== Sys2Proof/Laws/Frame.lean ====
section
/-! SUPPORT. Which fields each command can change: everything else of the state is as it was. -/

namespace Sys2Proof.Machine

/-- `t` is `s` after a command error of `i`, or differs from `s` in the fields `i` writes and no other. -/
def Framed (i : Instr) (s t : State) : Prop :=
  (∃ e, t = s.takeError i.opcode e) ∨
  match i with
  | .nop => t = s
  | .keysetup _ => t = { s with cs := t.cs, csStage := t.csStage }
  | .ivsetup _ => t = { s with cs := t.cs, csStage := t.csStage }
  | .genblock => t = { s with buf := t.buf }
  | .xcrypt _ => t = { s with buf := t.buf, cs := t.cs }
  | .ksLoad => t = { s with key := t.key, pskStatus := t.pskStatus, result := t.result }
  | .ksVerify => t = { s with result := t.result }
  | .ksStore => t = { s with nvm := t.nvm, nvmLog := t.nvmLog }
  | .ksInitdef => t = { s with key := t.key, pskStatus := t.pskStatus, nvm := t.nvm, nvmLog := t.nvmLog }
  | .nonceInc .nonce => t = { s with nonce := t.nonce }
  | .nonceInc .buf => t = { s with buf := t.buf }
  | .nonceCmp _ => t = { s with result := t.result }
  | .resync => t = { s with nonce := t.nonce, result := t.result }
  | .encode _ => t = { s with buf := t.buf, cs := t.cs, csStage := t.csStage, result := t.result }
  | .decode _ => t = { s with buf := t.buf, cs := t.cs, csStage := t.csStage, result := t.result }
  | .sesByte _ =>
    t = { s with
      buf := t.buf, cs := t.cs, csStage := t.csStage, nonce := t.nonce, session := t.session, mode := t.mode
      localAddr := t.localAddr, inlen := t.inlen, txlen := t.txlen, sendPending := t.sendPending, events := t.events }
  | .sesRx _ =>
    t = { s with
      buf := t.buf, cs := t.cs, csStage := t.csStage, nonce := t.nonce, ptlen := t.ptlen, result := t.result
      events := t.events }
  | .sesConfirm _ => t = { s with sendPending := t.sendPending, confFail := t.confFail }
  | .sesTick => t = { s with session := t.session, events := t.events }

/-- A flush after an append or none keeps to the fields SES_BYTE writes. -/
theorem Flushed.framed {s u t : State} (h : Flushed u t)
    (hu : u = { s with buf := u.buf, inlen := u.inlen, events := u.events }) :
    t = { s with
      buf := t.buf, cs := t.cs, csStage := t.csStage, nonce := t.nonce, session := t.session, mode := t.mode
      localAddr := t.localAddr, inlen := t.inlen, txlen := t.txlen, sendPending := t.sendPending, events := t.events } := by
  have := h.eq
  rw [hu] at this
  rw [this]

theorem exec_framed {i : Instr} {s t : State} (h : exec i s = .next t) : Framed i s t := by
  cases i with
  | nop => exact .inr (execNop_next.mp h)
  | keysetup x =>
    rcases execKeysetup_next h with ⟨e, h⟩ | ⟨k, h⟩ <;> subst h
    · exact .inl ⟨e, rfl⟩
    · exact .inr rfl
  | ivsetup x =>
    rcases execIvsetup_next h with ⟨e, h⟩ | ⟨-, k, h⟩ <;> subst h
    · exact .inl ⟨e, rfl⟩
    · exact .inr rfl
  | genblock =>
    rcases execGenblock_next h with ⟨e, h⟩ | ⟨-, h⟩
    · exact .inl ⟨e, h⟩
    · exact .inr (by rw [h, State.putBuf_eq])
  | xcrypt x =>
    rcases execXcrypt_next h with ⟨e, h⟩ | ⟨_, -, -, -, h⟩
    · exact .inl ⟨e, h⟩
    · right; rw [h, State.putBuf_eq]; rfl
  | ksLoad => right; rw [execKsLoad_next.mp h, State.load_eq]
  | ksVerify =>
    rcases execKsVerify_next h with ⟨e, h⟩ | ⟨_, h⟩ <;> subst h
    · exact .inl ⟨e, rfl⟩
    · exact .inr rfl
  | ksStore =>
    rcases execKsStore_next h with ⟨e, h⟩ | ⟨_, h⟩
    · exact .inl ⟨e, h⟩
    · right; rw [h, State.storeSeq_eq]
  | ksInitdef =>
    rcases execKsInitdef_next h with ⟨e, h⟩ | ⟨_, h⟩
    · exact .inl ⟨e, h⟩
    · right; rw [h, State.initDefault_eq]
  | nonceInc x =>
    rcases execNonceInc_next h with ⟨e, h⟩ | ⟨hx, h⟩ | ⟨hx, _, -, -, h⟩
    · exact .inl ⟨e, h⟩
    · subst hx; right; rw [‹t = _›]; exact State.incNonce_eq s
    · subst hx; right; rw [‹t = _›]; exact State.putBuf_eq _ _ _
  | nonceCmp x =>
    rcases execNonceCmp_next h with ⟨e, h⟩ | ⟨_, h⟩ <;> subst h
    · exact .inl ⟨e, rfl⟩
    · exact .inr rfl
  | resync =>
    rcases execResync_next h with ⟨e, h⟩ | ⟨p, v, h⟩
    · exact .inl ⟨e, h⟩
    · right; rw [h, State.resync_eq]; rfl
  | encode x =>
    rcases execEncode_next h with ⟨e, h⟩ | ⟨_, _, -, -, h⟩
    · exact .inl ⟨e, h⟩
    · right; rw [h, State.encoded_eq]; rfl
  | decode x =>
    rcases execDecode_next h with ⟨e, h⟩ | ⟨-, v, h⟩ | ⟨-, _, _, _, -, -, h⟩
    · exact .inl ⟨e, h⟩
    · right; rw [h]; rfl
    · right; rw [h, State.decoded_eq]; rfl
  | sesRx x =>
    rcases execSesRx_next h with ⟨e, h⟩ | ⟨-, -, ⟨-, h⟩ | ⟨-, h⟩⟩
    · exact .inl ⟨e, h⟩
    · right; rw [h]; rfl
    · right
      rcases receive_next h with ⟨-, h⟩ | ⟨-, _, _, -, -, -, h⟩
      · rw [h]; rfl
      · rw [h, State.received_eq, State.decoded_eq]; rfl
  | sesConfirm k =>
    rcases execSesConfirm_next h with ⟨e, h⟩ | h | ⟨-, h⟩ <;> subst h
    · exact .inl ⟨e, rfl⟩
    · exact .inr rfl
    · exact .inr rfl
  | sesTick =>
    rcases execSesTick_next h with ⟨e, h⟩ | h | ⟨-, -, h⟩ <;> subst h
    · exact .inl ⟨e, rfl⟩
    · exact .inr rfl
    · exact .inr rfl
  | sesByte b =>
    cases execSesByte_effect h with
    | error e hs h => exact .inl ⟨e, h⟩
    | sender hs hb h => right; rw [h]; rfl
    | listener hs hb h => right; rw [h]; rfl
    | same h => right; rw [h]
    | invalid h => right; rw [h]; rfl
    | prompt hs hb h => right; rw [h]; rfl
    | redisplay h => right; rw [h]; rfl
    | appended hs hf hr h => right; rw [h]; rfl
    | overflow hs hf hr h => exact .inr (h.framed rfl)
    | submit hs h => exact .inr (h.framed rfl)

end Sys2Proof.Machine
end

