-- ==== Sys2Proof/Laws/Step.lean ====
section
/-! SUPPORT. What one step is, turn by turn, and the three ways the reset sequence ends. -/

namespace Sys2Proof.Machine

variable {s : State}

theorem step_host {a : Access} {rest : List Turn} (hw : s.cfg.wf) (ht : s.turns = .host a :: rest) :
    step s = .next (State.access a { s with turns := rest }) := by
  unfold step takeTurn
  rw [if_pos hw, ht]

theorem step_reset {rest : List Turn} (hw : s.cfg.wf) (ht : s.turns = .reset :: rest) :
    step s = .next (State.applyReset { s with turns := rest }) := by
  unfold step takeTurn
  rw [if_pos hw, ht]

/-- The engine's turn, whether it is listed or no turn is. -/
theorem step_engine {rest : List Turn} (hw : s.cfg.wf)
    (ht : (s.turns = [] ∧ rest = []) ∨ s.turns = .engine :: rest) : step s = engineTurn { s with turns := rest } := by
  unfold step takeTurn
  rw [if_pos hw]
  rcases ht with ⟨h, rfl⟩ | h
  · rw [h]
    have : ({ s with turns := [] } : State) = s := by rw [← h]
    rw [this]
  · rw [h]

/-- A step is one of the turns of 20_memory R97. -/
theorem step_next {t : State} (h : step s = .next t) :
    s.cfg.wf ∧
    ((∃ a rest, s.turns = .host a :: rest ∧ t = State.access a { s with turns := rest }) ∨
     (∃ rest, s.turns = .reset :: rest ∧ t = State.applyReset { s with turns := rest }) ∨
     (∃ rest, ((s.turns = [] ∧ rest = []) ∨ s.turns = .engine :: rest) ∧
       engineTurn { s with turns := rest } = .next t)) := by
  by_cases hw : s.cfg.wf
  · refine ⟨hw, ?_⟩
    rcases ht : s.turns with _ | ⟨_ | _ | _, rest⟩
    · have e := step_engine hw (rest := []) (.inl ⟨ht, rfl⟩)
      exact .inr (.inr ⟨[], .inl ⟨rfl, rfl⟩, e ▸ h⟩)
    · rw [step_host hw ht] at h
      cases h
      exact .inl ⟨_, _, rfl, rfl⟩
    · have e := step_engine hw (rest := rest) (.inr ht)
      exact .inr (.inr ⟨rest, .inr rfl, e ▸ h⟩)
    · rw [step_reset hw ht] at h
      cases h
      exact .inr (.inl ⟨_, rfl, rfl⟩)
  · unfold step at h
    rw [if_neg hw] at h
    cases h

/-- What the engine's turn does: nothing while idle, the reset sequence, a decoding error, or a command. -/
theorem engineTurn_next {t : State} (h : engineTurn s = .next t) :
    (s.busy = false ∧ t = s) ∨
    (s.busy = true ∧ s.bootPending = true ∧ t = s.resetSequence) ∨
    (s.busy = true ∧ s.bootPending = false ∧
      ((∃ e, decode s.cmdLatch = .error e ∧ t = (s.takeError (opField s.cmdLatch) e).complete) ∨
       ∃ i u, decode s.cmdLatch = .ok i ∧ exec i s = .next u ∧ t = u.complete)) := by
  unfold engineTurn at h
  split at h
  · next hb =>
    split at h
    · next hp => cases h; exact .inr (.inl ⟨hb, hp, rfl⟩)
    · next hp =>
      refine .inr (.inr ⟨hb, eq_false_of_ne_true hp, ?_⟩)
      unfold engineStep at h
      split at h
      · next e hd => cases h; exact .inl ⟨e, hd, rfl⟩
      · next i hd =>
        rw [andThen_next] at h
        obtain ⟨u, hu, h⟩ := h
        cases h
        exact .inr ⟨i, u, hd, hu, rfl⟩
  · next hb => cases h; exact .inl ⟨eq_false_of_ne_true hb, rfl⟩

/-- The reset sequence when no key is stored (70_reset R311). -/
theorem State.resetSequence_invalid (h : s.markerMatches = false) :
    s.resetSequence =
      { (s.storeSeq s.cfg.defaultPsk.toList) with
        key := s.cfg.defaultPsk, pskStatus := .valid, result := 0
        events := s.events ++ [.notice .keyInvalid, .notice .promptMode]
        session := .modeSelection, busy := false, bootPending := false, freeCtr := s.freeCtr + 1 } := by
  have ho : s.loadOutcome = .invalid := by simp [State.loadOutcome, h]
  have hb : s.bootKey = (s.load.notify .keyInvalid).initDefault := by
    unfold State.bootKey
    simp only
    rw [State.load_eq, ho]
  unfold State.resetSequence
  rw [hb]
  unfold State.initDefault
  rw [State.storeSeq_eq, State.storeSeq_eq, State.load_eq, ho]
  simp [State.emit, State.complete, h, State.load, keystoreResult, PskStatus.code]

/-- The reset sequence when a key is stored, and `PSK_STATUS` is Valid or Error by its checksum (70_reset R311). -/
theorem State.resetSequence_stored (h : s.markerMatches = true) :
    s.resetSequence =
      { s with
        key := s.storedKey, pskStatus := s.loadOutcome, result := keystoreResult s.loadOutcome
        events := s.events ++
          (if s.loadOutcome = .valid then [.notice .promptMode] else [.notice .keyCorrupt, .notice .promptMode])
        session := .modeSelection, busy := false, bootPending := false, freeCtr := s.freeCtr + 1 } := by
  have hk : s.load.key = s.storedKey := by simp [State.load, h]
  unfold State.resetSequence State.bootKey
  simp only
  rw [State.load_eq, hk]
  by_cases hv : xor8 s.storedKey.toList = s.storedChecksum
  · have ho : s.loadOutcome = .valid := by simp [State.loadOutcome, h, hv]
    simp [ho, State.emit, State.complete]
  · have ho : s.loadOutcome = .error := by simp [State.loadOutcome, h, hv]
    simp [ho, State.emit, State.complete]

/-- `withFetchWord` puts the word where the next step runs it: the step decodes it and runs the command, or records its
decoding error (log 7). -/
theorem step_withFetchWord (nbits w : Nat) (hw : s.cfg.wf) :
    step (s.withFetchWord nbits w) =
      engineStep { (s.withFetchWord nbits w) with turns := (if s.bootPending then s.resetSequence else s).turns } := by
  have hboot : s.resetSequence.bootPending = false ∧ s.resetSequence.cfg = s.cfg := by
    cases h : s.markerMatches
    · rw [State.resetSequence_invalid h, State.storeSeq_eq]; exact ⟨rfl, rfl⟩
    · rw [State.resetSequence_stored h]; exact ⟨rfl, rfl⟩
  have hc : (s.withFetchWord nbits w).cfg = s.cfg ∧ (s.withFetchWord nbits w).bootPending = false := by
    unfold State.withFetchWord State.placeCommand
    cases hb : s.bootPending
    · exact ⟨rfl, hb⟩
    · exact ⟨hboot.2, hboot.1⟩
  rw [step_engine (s := s.withFetchWord nbits w) (hc.1 ▸ hw) (.inr rfl)]
  unfold engineTurn
  rw [if_pos (show ({ (s.withFetchWord nbits w) with turns := _ } : State).busy = true from rfl)]
  rw [if_neg (show ¬ ({ (s.withFetchWord nbits w) with turns := _ } : State).bootPending = true by
    simp [hc.2])]

end Sys2Proof.Machine
end

