-- ==== Sys2Proof/Laws/Invariant.lean ====
section
/-! SUPPORT. How the invariant carries over the shared operations. -/

namespace Sys2Proof.Machine

variable {s t : State}

/-- The fields the invariant does not speak of. -/
theorem State.Inv.of_free (hi : s.Inv)
    (h : t = { s with
      nonce := t.nonce, localAddr := t.localAddr, txlen := t.txlen, ptlen := t.ptlen, sendPending := t.sendPending
      confFail := t.confFail, result := t.result, src := t.src, dst := t.dst, cmdLatch := t.cmdLatch, err := t.err
      ovr := t.ovr, nvmLog := t.nvmLog, events := t.events, turns := t.turns, reply := t.reply
      freeCtr := t.freeCtr }) : t.Inv := by
  obtain ⟨h1, h2, h3, h4, h5, h6, h7, h8, h9, h10, h11, h12, h13⟩ := hi
  rw [h]
  exact ⟨h1, h2, h3, h4, h5, h6, h7, h8, h9, h10, h11, h12, h13⟩

theorem State.Inv.putBuf (hi : s.Inv) {a : Nat} {bs : List Byte} (h : a + bs.length ≤ s.cfg.bufSize) :
    (s.putBuf a bs).Inv := by
  obtain ⟨h1, h2, h3, h4, h5, h6, h7, h8, h9, h10, h11, h12, h13⟩ := hi
  exact ⟨h1, Memory.writeBytes_wf h2 h, h3, h4, fun i hi => State.bufByte_putBuf_isSome (h5 i hi), h6, h7, h8, h9, h10,
    h11, h12, h13⟩

theorem State.Inv.cipherState (hi : s.Inv) {x : Vector Word 16} {stage : CsStage}
    (hc : stage ≠ .empty → x[0] = sigma0 ∧ x[5] = sigma1 ∧ x[10] = sigma2 ∧ x[15] = sigma3)
    (hf : s.cfg.ctrMode = .frozen → x[8] = 0 ∧ x[9] = 0) : ({ s with cs := x, csStage := stage } : State).Inv := by
  obtain ⟨h1, h2, h3, h4, h5, h6, h7, h8, h9, h10, -, -, h13⟩ := hi
  exact ⟨h1, h2, h3, h4, h5, h6, h7, h8, h9, h10, hc, hf, h13⟩

theorem State.Inv.emptied (hi : s.Inv) : ({ s with inlen := 0 } : State).Inv := by
  obtain ⟨h1, h2, h3, -, -, h6, h7, h8, h9, h10, h11, h12, h13⟩ := hi
  exact ⟨h1, h2, h3, h1.2.2.1, fun i h => absurd h (Nat.not_lt_zero i), h6, h7, h8, h9, h10, h11, h12, h13⟩

/-- `ERRCODE` is the code of 60_exceptions R281. -/
theorem errinfoOf_code (op : Byte) (e : CmdErr) : (errinfoOf op e).extractLsb' 0 8 = errCode e := by
  unfold errinfoOf
  generalize errCode e = code
  apply BitVec.eq_of_getLsbD_eq
  intro i hi
  rw [BitVec.getLsbD_extractLsb', Nat.zero_add]
  have := BitVec.getLsbD_append (x := op) (y := code) (i := i)
  rw [if_pos hi] at this
  simp [hi, this]

theorem State.Inv.takeError (hi : s.Inv) (op : Byte) (e : CmdErr) : (s.takeError op e).Inv := by
  obtain ⟨h1, h2, h3, h4, h5, h6, h7, h8, h9, h10, h11, h12, -⟩ := hi
  refine ⟨h1, h2, h3, h4, h5, h6, h7, h8, h9, h10, h11, h12, ?_⟩
  show ((errinfoOf op e).extractLsb' 0 8).toNat ≤ 6
  rw [errinfoOf_code]
  cases e <;> decide

/-- A cipher state with the constant in its places, whose counter is zero in `Frozen` mode. -/
def CipherOk (mode : CtrMode) (x : Vector Word 16) : Prop :=
  (x[0] = sigma0 ∧ x[5] = sigma1 ∧ x[10] = sigma2 ∧ x[15] = sigma3) ∧ (mode = .frozen → x[8] = 0 ∧ x[9] = 0)

theorem CipherOk.message (mode : CtrMode) (key nonce : List Byte) (x : Vector Word 16) :
    CipherOk mode (ivWords nonce (keyWords key x)) := ⟨⟨rfl, rfl, rfl, rfl⟩, fun _ => ⟨rfl, rfl⟩⟩

theorem CipherOk.advance {mode : CtrMode} {x : Vector Word 16} (h : CipherOk mode x) :
    CipherOk mode (ctrAdvance mode x) := by
  cases mode with
  | frozen => exact h
  | advance =>
    refine ⟨?_, nofun⟩
    have hk : ∀ (i : Nat) (_ : i < 16), i ≠ 8 → i ≠ 9 → (ctrAdvance .advance x)[i] = x[i] := by
      intro i hi h8 h9
      unfold ctrAdvance
      dsimp only
      split <;> simp [h8.symm, h9.symm]
    rw [hk 0 (by omega) (by omega) (by omega), hk 5 (by omega) (by omega) (by omega),
      hk 10 (by omega) (by omega) (by omega), hk 15 (by omega) (by omega) (by omega)]
    exact h.1

theorem CipherOk.iterate {mode : CtrMode} {x : Vector Word 16} (n : Nat) (h : CipherOk mode x) :
    CipherOk mode ((ctrAdvance mode)^[n] x) := by
  induction n generalizing x with
  | zero => exact h
  | succ n ih => rw [Function.iterate_succ_apply]; exact ih h.advance

theorem State.Inv.encoded (hi : s.Inv) {pt : List Byte} {dst : Nat} (h : dst + (8 + pt.length) ≤ s.cfg.bufSize) :
    (s.encoded pt dst).Inv := by
  have e : s.encoded pt dst =
      State.putBuf dst (s.nonce.toList ++ (xcrypt s.cfg.ctrMode (s.messageSetup s.nonce.toList).cs pt).1)
        { s with cs := (xcrypt s.cfg.ctrMode (s.messageSetup s.nonce.toList).cs pt).2, csStage := .ready } := rfl
  have hc : CipherOk s.cfg.ctrMode (xcrypt s.cfg.ctrMode (s.messageSetup s.nonce.toList).cs pt).2 := by
    rw [xcrypt_state]
    exact (CipherOk.message _ _ _ _).iterate _
  rw [e]
  exact (hi.cipherState (fun _ => hc.1) hc.2).putBuf (by simpa using h)

theorem State.Inv.decoded (hi : s.Inv) {hdr ct : List Byte} {dst : Nat} (h : dst + (ct.length + 1) ≤ s.cfg.bufSize) :
    (s.decoded hdr ct dst).Inv := by
  have e : s.decoded hdr ct dst =
      State.putBuf dst ((xcrypt s.cfg.ctrMode (s.messageSetup hdr).cs ct).1 ++ [0x00])
        { s with cs := (xcrypt s.cfg.ctrMode (s.messageSetup hdr).cs ct).2, csStage := .ready } := rfl
  have hc : CipherOk s.cfg.ctrMode (xcrypt s.cfg.ctrMode (s.messageSetup hdr).cs ct).2 := by
    rw [xcrypt_state]
    exact (CipherOk.message _ _ _ _).iterate _
  rw [e]
  exact (hi.cipherState (fun _ => hc.1) hc.2).putBuf (by simpa using h)

theorem Flushed.inv {u : State} (hi : ({ u with inlen := 0 } : State).Inv) (h : Flushed u t) : t.Inv := by
  cases h with
  | aborted h => rw [h]; exact hi.of_free rfl
  | suppressed h => rw [h]; exact hi.of_free rfl
  | sent pt h1 h2 h3 h4 h =>
    have hl := State.bufBytes_length h3
    have hi2 : ({ u.encoded pt u.cfg.txBase with inlen := 0 } : State).Inv :=
      State.Inv.encoded (s := { u with inlen := 0 }) hi (pt := pt) (dst := u.cfg.txBase) (by rw [hl]; exact h4)
    rw [h, State.sent_eq]
    generalize u.encoded pt u.cfg.txBase = v at hi2 ⊢
    exact hi2.of_free rfl

theorem State.storeSeq_markerMatches {key : List Byte} (hk : key.length = 32) : (s.storeSeq key).markerMatches = true := by
  have h : (s.storeSeq key).nvmByte s.cfg.nvmMarkerAddr = s.cfg.markerValue := by
    rw [State.nvmByte_storeSeq s key hk]
    simp
  have hc : (s.storeSeq key).cfg = s.cfg := by rw [State.storeSeq_eq]
  unfold State.markerMatches
  rw [hc]
  exact decide_eq_true h

theorem State.Inv.storeSeq (hi : s.Inv) {key : List Byte} (hk : key.length = 32) : (s.storeSeq key).Inv := by
  have hn : Memory.wf s.cfg.nvmSize Memory.nvmBlank (s.storeSeq key).nvm := by
    rw [State.storeSeq_eq]
    have hw := hi.cfg_ok
    have a1 := hw.2.2.2.2.2.2.1
    have a2 := hw.2.2.2.2.2.2.2.1
    exact Memory.write_wf (Memory.write_wf (Memory.writeBytes_wf hi.nvm_ok (by omega)) (by omega)) a2
  have hm := State.storeSeq_markerMatches (s := s) hk
  have e := State.storeSeq_eq s key
  generalize s.storeSeq key = v at hn hm e
  obtain ⟨h1, h2, -, h4, h5, h6, h7, h8, -, h10, h11, h12, h13⟩ := hi
  have e' : v = { s with nvm := v.nvm, nvmLog := v.nvmLog } := by rw [e]
  clear e
  rw [e'] at hm ⊢
  exact ⟨h1, h2, hn, h4, h5, h6, h7, h8, fun _ => hm, h10, h11, h12, h13⟩

end Sys2Proof.Machine
end

