-- ==== Sys2Proof/Laws/PerInstr.lean ====
section
/-! SUPPORT. What holds of every instruction as syntax, one lemma per constructor. -/

namespace Sys2Proof.Laws.RoundTrip

/-- Decoding the encoding of a well-formed instruction gives it back (30_encoding R113, R115). -/
def Statement (i : Instr) : Prop := i.wellFormed = true → Sys2Proof.decode (Sys2Proof.encode i) = .ok i


theorem nop : Statement .nop := fun _ => by simp [Sys2Proof.decode, Sys2Proof.encode, Instr.opcode, Instr.arg, Instr.len, decodePlain]

theorem genblock : Statement .genblock := fun _ => by simp [Sys2Proof.decode, Sys2Proof.encode, Instr.opcode, Instr.arg, Instr.len, decodePlain]

theorem ksLoad : Statement .ksLoad := fun _ => by simp [Sys2Proof.decode, Sys2Proof.encode, Instr.opcode, Instr.arg, Instr.len, decodePlain]

theorem ksVerify : Statement .ksVerify := fun _ => by simp [Sys2Proof.decode, Sys2Proof.encode, Instr.opcode, Instr.arg, Instr.len, decodePlain]

theorem ksStore : Statement .ksStore := fun _ => by simp [Sys2Proof.decode, Sys2Proof.encode, Instr.opcode, Instr.arg, Instr.len, decodePlain]

theorem ksInitdef : Statement .ksInitdef := fun _ => by simp [Sys2Proof.decode, Sys2Proof.encode, Instr.opcode, Instr.arg, Instr.len, decodePlain]

theorem resync : Statement .resync := fun _ => by simp [Sys2Proof.decode, Sys2Proof.encode, Instr.opcode, Instr.arg, Instr.len, decodePlain]

theorem sesTick : Statement .sesTick := fun _ => by simp [Sys2Proof.decode, Sys2Proof.encode, Instr.opcode, Instr.arg, Instr.len, decodePlain]

theorem keysetup (x : KeySel) : Statement (.keysetup x) := fun _ => by
  cases x <;> simp [Sys2Proof.decode, Sys2Proof.encode, Instr.opcode, Instr.arg, Instr.len, decodeSelect, selector, KeySel.arg, KeySel.ofBit]

theorem ivsetup (x : NonceSel) : Statement (.ivsetup x) := fun _ => by
  cases x <;> simp [Sys2Proof.decode, Sys2Proof.encode, Instr.opcode, Instr.arg, Instr.len, decodeSelect, selector, NonceSel.arg, NonceSel.ofBit]

theorem nonceInc (x : NonceSel) : Statement (.nonceInc x) := fun _ => by
  cases x <;> simp [Sys2Proof.decode, Sys2Proof.encode, Instr.opcode, Instr.arg, Instr.len, decodeSelect, selector, NonceSel.arg, NonceSel.ofBit]

theorem nonceCmp (x : NonceSel) : Statement (.nonceCmp x) := fun _ => by
  cases x <;> simp [Sys2Proof.decode, Sys2Proof.encode, Instr.opcode, Instr.arg, Instr.len, decodeSelect, selector, NonceSel.arg, NonceSel.ofBit]

theorem sesConfirm (x : Confirmation) : Statement (.sesConfirm x) := fun _ => by
  cases x <;> simp [Sys2Proof.decode, Sys2Proof.encode, Instr.opcode, Instr.arg, Instr.len, decodeSelect, selector, Confirmation.arg, Confirmation.ofBit]

theorem xcrypt (len : Nat) : Statement (.xcrypt len) := fun h => by
  have h : len < 65536 := by simpa [Instr.wellFormed, Instr.lenFits] using h
  simp [Sys2Proof.decode, Sys2Proof.encode, Instr.opcode, Instr.arg, Instr.len, decodeLen, Nat.mod_eq_of_lt h]

theorem encode (len : Nat) : Statement (.encode len) := fun h => by
  have h : len < 65536 := by simpa [Instr.wellFormed, Instr.lenFits] using h
  simp [Sys2Proof.decode, Sys2Proof.encode, Instr.opcode, Instr.arg, Instr.len, decodeLen, Nat.mod_eq_of_lt h]

theorem decode (len : Nat) : Statement (.decode len) := fun h => by
  have h : len < 65536 := by simpa [Instr.wellFormed, Instr.lenFits] using h
  simp [Sys2Proof.decode, Sys2Proof.encode, Instr.opcode, Instr.arg, Instr.len, decodeLen, Nat.mod_eq_of_lt h]

theorem sesRx (len : Nat) : Statement (.sesRx len) := fun h => by
  have h : len < 65536 := by simpa [Instr.wellFormed, Instr.lenFits] using h
  simp [Sys2Proof.decode, Sys2Proof.encode, Instr.opcode, Instr.arg, Instr.len, decodeLen, Nat.mod_eq_of_lt h]

theorem sesByte (b : Byte) : Statement (.sesByte b) := fun _ => by
  simp [Sys2Proof.decode, Sys2Proof.encode, Instr.opcode, Instr.arg, Instr.len, decodeByte]

end Sys2Proof.Laws.RoundTrip
end

