-- ==== Sys2Proof/Tests/Slice0.lean ====
section
/-! SUPPORT. Tests: the words of 30_encoding, the ill-formed instructions, the vectors of 95_test_vectors, one step each. -/

set_option Elab.async false

namespace Sys2Proof.Tests

open Sys2Proof Sys2Proof.Machine Sys2Proof.Claims

/-! ## The encoding -/

/-- The length operand of each command that has one: 65536 does not fit `L` (30_encoding R111). -/
theorem test_wellFormed_refuses_long_xcrypt : (Instr.xcrypt 65536).wellFormed = false := by decide
theorem test_wellFormed_refuses_long_encode : (Instr.encode 65536).wellFormed = false := by decide
theorem test_wellFormed_refuses_long_decode : (Instr.decode 65536).wellFormed = false := by decide
theorem test_wellFormed_refuses_long_sesRx : (Instr.sesRx 65536).wellFormed = false := by decide
theorem test_wellFormed_takes_longest : (Instr.xcrypt 65535).wellFormed = true := by decide

/-- One word of each form, written out from the bit rows of 30_encoding R113, and the command it stands for. -/
def plainWords : List (Nat × Instr) :=
  [(0x00000000, .nop), (0x01000000, .keysetup .psk), (0x01010000, .keysetup .buf), (0x02000000, .ivsetup .nonce),
   (0x02010000, .ivsetup .buf), (0x03000000, .genblock), (0x04000005, .xcrypt 5), (0x0400FFFF, .xcrypt 65535),
   (0x10000000, .ksLoad), (0x11000000, .ksVerify), (0x12000000, .ksStore), (0x13000000, .ksInitdef),
   (0x20000000, .nonceInc .nonce), (0x20010000, .nonceInc .buf), (0x21000000, .nonceCmp .nonce),
   (0x21010000, .nonceCmp .buf), (0x22000000, .resync)]

/-- The rest of them. -/
def sessionWords : List (Nat × Instr) :=
  [(0x30000002, .encode 2), (0x30008000, .encode 32768), (0x3100000A, .decode 10), (0x40310000, .sesByte 0x31),
   (0x40FF0000, .sesByte 0xFF), (0x4100000A, .sesRx 10), (0x42000000, .sesConfirm .ok), (0x42010000, .sesConfirm .fail),
   (0x43000000, .sesTick)]

theorem test_decode_plain_words : ∀ w ∈ plainWords, decodeTableWord 32 w.1 = some w.2 := by decide +kernel
theorem test_decode_message_words : ∀ w ∈ sessionWords, decodeTableWord 32 w.1 = some w.2 := by decide +kernel
theorem test_encode_plain_words : ∀ w ∈ plainWords, encode w.2 = BitVec.ofNat 32 w.1 := by decide +kernel
theorem test_encode_message_words : ∀ w ∈ sessionWords, encode w.2 = BitVec.ofNat 32 w.1 := by decide +kernel

/-- TE1, TE2, TE3, TE4, TS21, TS22, and a selector with a bit of `A[7:1]` set. -/
theorem test_decode_errors :
    decode 0x05000000 = .error .opcode ∧ decode 0xFF000000 = .error .opcode ∧ decode 0x00000001 = .error .field ∧
    decode 0x02030000 = .error .field ∧ decode 0x40410001 = .error .field ∧ decode 0x43010000 = .error .field ∧
    decode 0x42800000 = .error .field ∧ decode 0x04010000 = .error .field := by decide +kernel

/-! ## The cipher core: vectors V1 and V2 of 95_test_vectors -/

/-- The state of V1. -/
def v1State : Vector Word 16 :=
  #v[0x61707865, 0x00000080, 0, 0, 0, 0x3320646E, 0, 0, 0, 0, 0x79622D32, 0, 0, 0, 0, 0x6B206574]

/-- The block of V1. -/
def v1Block : List Byte :=
  [0xE3, 0xBE, 0x8F, 0xDD, 0x8B, 0xEC, 0xA2, 0xE3, 0xEA, 0x8E, 0xF9, 0x47, 0x5B, 0x29, 0xA6, 0xE7] ++
  [0x00, 0x39, 0x51, 0xE1, 0x09, 0x7A, 0x5C, 0x38, 0xD2, 0x3B, 0x7A, 0x5F, 0xAD, 0x9F, 0x68, 0x44] ++
  [0xB2, 0x2C, 0x97, 0x55, 0x9E, 0x27, 0x23, 0xC7, 0xCB, 0xBD, 0x3F, 0xE4, 0xFC, 0x8D, 0x9A, 0x07] ++
  [0x44, 0x65, 0x2A, 0x83, 0xE7, 0x2A, 0x9C, 0x46, 0x18, 0x76, 0xAF, 0x4D, 0x7E, 0xF1, 0xA1, 0x17]

theorem test_block_V1 : salsa20Block v1State = v1Block := by decide +kernel

/-- The state of V2. -/
def v2State : Vector Word 16 :=
  #v[0x61707865, 0x04030201, 0x08070605, 0x0C0B0A09, 0x100F0E0D, 0x3320646E, 0x68676665, 0x6C6B6A69,
     0x706F6E6D, 0x74737271, 0x79622D32, 0xCCCBCAC9, 0xD0CFCECD, 0xD4D3D2D1, 0xD8D7D6D5, 0x6B206574]

/-- The block of V2, decimal as the spec prints it. -/
def v2Block : List Byte :=
  [69, 37, 68, 39, 41, 15, 107, 193, 255, 139, 122, 6, 170, 233, 217, 98] ++
  [89, 144, 182, 106, 21, 51, 200, 65, 239, 49, 222, 34, 215, 114, 40, 126] ++
  [104, 197, 7, 225, 197, 153, 31, 2, 102, 78, 76, 176, 84, 245, 246, 184] ++
  [177, 160, 133, 130, 6, 72, 149, 119, 192, 195, 132, 236, 234, 103, 246, 74]

theorem test_block_V2 : salsa20Block v2State = v2Block := by decide +kernel

/-! ## One step each -/

/-- The stored record of "NVM valid" (95_test_vectors). -/
def nvmValid : List Host.Cell :=
  (List.finRange 32).map (fun i => (i.val, Config.exKey[i])) ++ [(0x20, 0x20), (0x40, 0xA5)]

/-- Idle after the reset sequence, with `EX` and a valid NVM. -/
def idle : State :=
  { State.powerOn Config.ex nvmValid with
    key := Config.exKey, pskStatus := .valid, result := 1, session := .modeSelection, busy := false
    bootPending := false, events := [.notice .promptMode] }

/-- Operating as Sender, with an empty input buffer. -/
def sender : State := { idle with session := .operating, mode := .sender, localAddr := 1, events := [] }

/-- Operating as Listener. -/
def listener : State := { idle with session := .operating, mode := .listener, localAddr := 2, events := [] }

/-- The cipher state of V1, set up (TC2). -/
def ready : State := { idle with cs := v1State, csStage := .ready }

/-- A property of the next state. -/
def Gives (r : Result) (p : State → Bool) : Bool :=
  match r with
  | .next t => p t
  | .fault _ => false
  | .refused _ => false

/-- The next state, where there is one. -/
def nextOf (r : Result) : Option State :=
  match r with
  | .next t => some t
  | .fault _ => none
  | .refused _ => none

/-- The fault, where there is one. -/
def faultOf (r : Result) : Option Fault :=
  match r with
  | .next _ => none
  | .fault f => some f
  | .refused _ => none

/-- TK1: the reset sequence over an erased NVM. -/
theorem test_reset_erased :
    Gives (step State.reset) (fun t =>
      t.key = Config.exKey ∧ t.pskStatus = .valid ∧ t.result = 0 ∧ t.nvmLog = nvmValid ∧ t.nvm = nvmValid ∧
      t.eventWords = [0x01000003, 0x01000001] ∧ t.statusWord = 0x110) = true := by decide +kernel

/-- TK2: the reset sequence over a flipped key bit. -/
theorem test_reset_corrupt :
    Gives (step (State.powerOn Config.ex (Memory.write Memory.nvmBlank nvmValid 0x05 0x16))) (fun t =>
      t.pskStatus = .error ∧ t.result = 2 ∧ t.key[5] = 0x16 ∧ t.nvmLog = [] ∧
      t.eventWords = [0x01000004, 0x01000001] ∧ t.statusWord = 0x120) = true := by decide +kernel

/-- The reset sequence over a valid NVM gives the start state of the vectors. -/
theorem test_reset_valid : nextOf (step (State.powerOn Config.ex nvmValid)) = some { idle with freeCtr := 1 } := by decide +kernel

/-- `withFetchWord` on the state after reset: the very next step runs the word (log 7). -/
theorem test_fetch_word :
    Gives (step (State.reset.withFetchWord 32 0x01000000)) (fun t => t.csStage = .keyed ∧ t.cs[1] = 0x04030201) = true := by
  decide +kernel

/-- TC18 -/
theorem test_nop : nextOf (exec .nop { idle with err := true }) = some { idle with err := true } := by decide +kernel

/-- TC1 -/
theorem test_keysetup_buf :
    Gives (exec (.keysetup .buf) (idle.putBuf 0 (0x80 :: List.replicate 31 0)))
      (fun t => t.cs = v1State ∧ t.csStage = .keyed ∧ t.statusWord = 0x150) = true := by decide +kernel

/-- TC17 -/
theorem test_keysetup_psk :
    Gives (exec (.keysetup .psk) idle)
      (fun t => t.cs[4] = 0x100F0E0D ∧ t.cs[11] = 0x14131211 ∧ t.cs[14] = 0x201F1E1D) = true := by decide +kernel

/-- TC2 -/
theorem test_ivsetup :
    Gives (exec (.ivsetup .buf) { idle.putBuf 0x20 (List.replicate 8 0) with cs := v1State, csStage := .keyed, src := 0x20 })
      (fun t => t.cs = v1State ∧ t.csStage = .ready ∧ t.statusWord = 0x190) = true := by decide +kernel

/-- TC13 -/
theorem test_ivsetup_sequence :
    nextOf (exec (.ivsetup .nonce) idle) = some { idle with err := true, errinfo := 0x0204 } := by decide +kernel

/-- TC11: the block fills the last 64 bytes of BUF. -/
theorem test_genblock_last :
    Gives (exec .genblock { ready with dst := 0x140 }) (fun t => t.bufBytes 0x140 64 = some v1Block ∧ t.cs = v1State) = true := by
  decide +kernel

/-- TC12 -/
theorem test_genblock_bounds :
    nextOf (exec .genblock { ready with dst := 0x141 }) = some { ready with dst := 0x141, err := true, errinfo := 0x0306 } := by
  decide +kernel

/-- TC4 -/
theorem test_xcrypt_hello :
    Gives (exec (.xcrypt 5) { ready.putBuf 0x40 [0x68, 0x65, 0x6C, 0x6C, 0x6F] with src := 0x40, dst := 0x48 })
      (fun t => t.bufBytes 0x48 5 = some [0x8B, 0xDB, 0xE3, 0xB1, 0xE4] ∧ t.cs = v1State) = true := by decide +kernel

/-- TC7: `Advance` -/
theorem test_xcrypt_advance :
    Gives (exec (.xcrypt 70) { ready.putBuf 0x40 (List.replicate 70 0) with
      src := 0x40, dst := 0xA0, cfg := { Config.ex with ctrMode := .advance } })
      (fun t => t.bufBytes 0xA0 64 = some v1Block ∧ t.bufBytes 0xE0 6 = some [0x8D, 0xA2, 0xB7, 0x4E, 0xEF, 0x1B] ∧
        t.cs[8] = 2 ∧ t.cs[9] = 0) = true := by decide +kernel

/-- TK12 -/
theorem test_ksLoad :
    Gives (exec .ksLoad { idle with key := Vector.replicate 32 0, pskStatus := .invalid })
      (fun t => t.key = Config.exKey ∧ t.pskStatus = .valid ∧ t.result = 1) = true := by decide +kernel

/-- TK5 -/
theorem test_ksVerify_degenerate :
    Gives (exec .ksVerify (idle.putBuf 0 (List.replicate 32 0xFF))) (fun t => t.result = 0 ∧ t.key = Config.exKey) = true := by
  decide +kernel

/-- TK7 -/
theorem test_ksVerify_valid :
    Gives (exec .ksVerify { idle.putBuf 0 Config.exKey.toList with result := 0 }) (fun t => t.result = 1) = true := by
  decide +kernel

/-- TK7, TK1: 34 writes in order. -/
theorem test_ksStore :
    Gives (exec .ksStore { idle with nvm := [] }) (fun t => t.nvmLog = nvmValid ∧ t.nvm = nvmValid) = true := by decide +kernel

/-- TK9 -/
theorem test_ksStore_state :
    nextOf (exec .ksStore { idle with pskStatus := .error }) = some { idle with pskStatus := .error, err := true, errinfo := 0x1203 } := by decide +kernel

/-- TK11 -/
theorem test_ksInitdef_state : nextOf (exec .ksInitdef idle) = some { idle with err := true, errinfo := 0x1303 } := by decide +kernel

/-- 41_keystore R177, from the state a load with a wrong marker leaves. -/
theorem test_ksInitdef :
    Gives (exec .ksInitdef { idle with pskStatus := .invalid, key := Vector.replicate 32 0, nvm := [] })
      (fun t => t.key = Config.exKey ∧ t.pskStatus = .valid ∧ t.nvmLog.length = 34) = true := by decide +kernel

/-- TN1 -/
theorem test_nonceInc_carry :
    Gives (exec (.nonceInc .buf) { idle.putBuf 8 [0xFF, 0, 0, 0, 0, 0, 0, 0] with dst := 8 })
      (fun t => t.bufBytes 8 8 = some [0, 1, 0, 0, 0, 0, 0, 0] ∧ t.nonce = idle.nonce) = true := by decide +kernel

/-- TN2 -/
theorem test_nonceInc_wrap :
    Gives (exec (.nonceInc .nonce) { idle with nonce := Vector.replicate 8 0xFF })
      (fun t => t.nonce = Vector.replicate 8 0) = true := by decide +kernel

/-- P4, step 2: the successor compares below its predecessor. -/
theorem test_nonceCmp_less :
    Gives (exec (.nonceCmp .buf)
        { (idle.putBuf 8 [0, 1, 0, 0, 0, 0, 0, 0]).putBuf 0x18 [0xFF, 0, 0, 0, 0, 0, 0, 0] with src := 8, dst := 0x18 })
      (fun t => t.result = 2) = true := by decide +kernel

/-- P4, step 3 -/
theorem test_resync_adopts :
    Gives (exec .resync { idle.putBuf 0x20 [0, 5, 0, 0, 0, 0, 0, 0] with src := 0x20 })
      (fun t => t.nonce = #v[1, 5, 0, 0, 0, 0, 0, 0] ∧ t.result = 1) = true := by decide +kernel

/-- P4, step 4 -/
theorem test_resync_keeps :
    Gives (exec .resync
        { idle.putBuf 0x28 [1, 0, 0, 0, 0, 0, 0, 0] with src := 0x28, nonce := #v[1, 5, 0, 0, 0, 0, 0, 0] })
      (fun t => t.nonce = #v[1, 5, 0, 0, 0, 0, 0, 0] ∧ t.result = 0) = true := by decide +kernel

/-- TD1 -/
theorem test_encode_HI :
    Gives (exec (.encode 2) { idle.putBuf 0 [0x48, 0x49] with dst := 0x10 })
      (fun t => t.bufBytes 0x10 10 = some [0, 0, 0, 0, 0, 0, 0, 0, 0x3F, 0x61] ∧ t.result = 10 ∧ t.csStage = .ready ∧
        t.nonce = idle.nonce) = true := by decide +kernel

/-- TD6: the length check comes before any BUF read. -/
theorem test_encode_length : nextOf (exec (.encode 89) idle) = some { idle with err := true, errinfo := 0x3005 } := by
  decide +kernel

/-- TD10 -/
theorem test_decode_OK :
    Gives (exec (.decode 10) { idle.putBuf 0x10 [5, 0, 0, 0, 0, 0, 0, 0, 0x5D, 0x12] with src := 0x10, dst := 0x20 })
      (fun t => t.bufBytes 0x20 3 = some [0x4F, 0x4B, 0] ∧ t.result = 0x00020000) = true := by decide +kernel

/-- TD4 -/
theorem test_decode_short : nextOf (exec (.decode 0) idle) = some { idle with result := 1 } := by decide +kernel

/-- TD11: a command that reads a byte nothing has written since reset stops. -/
theorem test_unwritten_read : faultOf (exec (.encode 2) { idle with src := 0x1A }) = some .uninitRead := by decide +kernel

/-- TS5 -/
theorem test_sesByte_sender :
    Gives (exec (.sesByte 0x31) { idle with events := [] })
      (fun t => t.eventWords = [0x02000001, 0x0100000A] ∧ t.localAddr = 1 ∧ t.statusWord = 0x610) = true := by decide +kernel

/-- TS9, the carriage return: the flush sends. -/
theorem test_sesByte_flush :
    Gives (exec (.sesByte 0x0D) { sender.putBuf 0 [0x41, 0x4D] with inlen := 2 })
      (fun t => t.bufBytes 0x60 10 = some [0, 0, 0, 0, 0, 0, 0, 0, 0x36, 0x65] ∧
        t.eventWords = [0x0300000A, 0x01010002, 0] ∧ t.nonce[0] = 1 ∧ t.inlen = 0 ∧ t.statusWord = 0x1690) = true := by
  decide +kernel

/-- TS16: sanitised, and an older nonce. -/
theorem test_sesRx_sanitised :
    Gives (exec (.sesRx 11)
        { listener.putBuf 0xC0 [3, 0, 0, 0, 0, 0, 0, 0, 0x9D, 0x24, 0x64] with nonce := #v[6, 0, 0, 0, 0, 0, 0, 0] })
      (fun t => t.bufBytes 0x120 4 = some [0x41, 0x01, 0x7A, 0] ∧ t.ptlen = 3 ∧
        t.eventWords = [0x04000003, 0x007A2E41, 0x01000009] ∧ t.nonce[0] = 6 ∧ t.result = 1) = true := by decide +kernel

/-- TS13 -/
theorem test_sesRx_dropped : nextOf (exec (.sesRx 10) sender) = some { sender with result := 0 } := by decide +kernel

/-- TS19 -/
theorem test_sesConfirm :
    nextOf (exec (.sesConfirm .fail) { sender with sendPending := true }) = some { sender with confFail := true } := by decide +kernel

/-- 44_session R250, from a state no run reaches. -/
theorem test_sesTick :
    Gives (exec .sesTick { sender with mode := .none }) (fun t => t.session = .modeSelection ∧ t.eventWords = [0x01000001]) =
      true := by decide +kernel

/-! ## The host interface -/

/-- TE7, TE8: writes while `BUSY` = 1. -/
theorem test_busy_writes :
    State.access (.write .word 0x00008 0x10) { idle with busy := true } =
      { idle with busy := true, ovr := true, reply := some .done, freeCtr := 1 } := by decide +kernel

/-- 10_state R46, R52: an idle write takes bits 15:0. -/
theorem test_src_write :
    State.access (.write .word 0x00008 0xABCD0160) idle = { idle with src := 0x0160, reply := some .done, freeCtr := 1 } := by
  decide +kernel

/-- TE11, TE14 -/
theorem test_reads :
    idle.readReply .word 0x00030 = .word 0x00580060 ∧
    (idle.putBuf 0 [0x48, 0x49, 0x4A, 0x4B]).readReply .word 0x10000 = .word 0x4B4A4948 := by decide +kernel

/-- TE5 -/
theorem test_clear_err :
    State.access (.write .word 0x00004 2) { idle with err := true, errinfo := 0x0501 } =
      { idle with errinfo := 0x0501, reply := some .done, freeCtr := 1 } := by decide +kernel

/-! ## Witnesses: for every statement with hypotheses, a state and operands that meet them all -/

/-- A next state exists where `nextOf` finds one. -/
theorem exists_next {r : Result} (h : (nextOf r).isSome = true) : ∃ t, r = .next t := by
  cases r with
  | next t => exact ⟨t, rfl⟩
  | fault f => exact nomatch h
  | refused f => exact nomatch h

theorem idle_inv : idle.Inv := by constructor <;> decide +kernel
theorem sender_inv : sender.Inv := by constructor <;> decide +kernel

/-- A Sender with 87 of 88 bytes in the input buffer: the next printable byte overflows. -/
def almostFull : State := { sender.putBuf 0 (List.replicate 87 0x61) with inlen := 87 }

theorem almostFull_inv : almostFull.Inv := by constructor <;> decide +kernel

/-- A stored record with one key bit flipped, after its reset sequence (TK2). -/
def corrupt : State :=
  { idle with
    nvm := Memory.write Memory.nvmBlank nvmValid 0x05 0x16, key := Config.exKey.set 5 0x16, pskStatus := .error
    result := 2, turns := [.reset] }

theorem corrupt_inv : corrupt.Inv := by constructor <;> decide +kernel

/-- BUF filled with zeros, all 384 bytes of it, in three pieces. -/
def filled (s : State) : State :=
  { s with buf := (List.range 384).map fun a => (a, 0) }

theorem witness_DecodeOfEncodeIsTheCommand : (Instr.sesRx 65535).wellFormed = true := by decide

theorem witness_EncodeOfDecodeIsTheWord : decode 0x0400FFFF = .ok (.xcrypt 65535) := by decide +kernel

theorem witness_DecodeFollowsMatchAndMask :
    decode 0x40FF0000 = .ok (.sesByte 0xFF) ∧ ((0x40000000, 0xFF00FFFF) : Word × Word) ∈ matchMask ∧
    (0x40FF0000 : Word) &&& 0xFF00FFFF = 0x40000000 := by decide +kernel

/-- One word for each of the three answers. -/
theorem witness_DecodeIsTotal :
    opField 0x44000000 ∉ assignedOpcodes ∧
    (opField 0x43000001 ∈ assignedOpcodes ∧ ¬ matchesARow 0x43000001) ∧
    (opField 0x4100FFFF ∈ assignedOpcodes ∧ matchesARow 0x4100FFFF) := by decide +kernel

/-- A row with one of its reserved bits set: the lowest of `L` where `L` is reserved, else the highest of `A`. -/
def withReservedBit (r : Word × Word) : Word := if r.2 &&& 1 = 1 then r.1 ||| 1 else r.1 ||| 0x00800000

/-- For every row, a word with its opcode and a reserved bit set. -/
theorem witness_ReservedBitsRejected :
    (matchMask.all fun r => opField (withReservedBit r) = opField r.1 ∧ withReservedBit r &&& r.2 ≠ r.1) = true := by
  decide +kernel

theorem witness_CommandExecution_write :
    HostTurn { idle with turns := [.host (.write .word 0 0x01000000)] } (.write .word 0x00000 0x01000000) [] ∧
    HostTurn { idle with busy := true, turns := [.host (.write .word 0 0)] } (.write .word 0x00000 0) [] := by
  unfold HostTurn
  decide +kernel

theorem witness_CommandExecution_step :
    (EngineTurn { idle with busy := true } [] ∧ EngineTurn { idle with busy := true, turns := [.engine, .engine] } [.engine]) ∧
    idle.bootPending = false ∧ decode 0x01000000 = .ok (.keysetup .psk) ∧ decode 0x05000000 = .error .opcode := by
  unfold EngineTurn
  decide +kernel

/-- Every error code, and none (95_test_vectors TE1, TE3, TK9 in Initial, TC13, TD6, TC9; NOP). -/
theorem witness_ErrorsArePreciseAndPrioritised :
    EngineTurn { idle with busy := true } [] ∧ wordError 0x05000000 idle = some .opcode ∧
    wordError 0x02030000 idle = some .field ∧ wordError 0x13000000 idle = some .state ∧
    wordError 0x02000000 idle = some .sequence ∧ wordError 0x30000059 idle = some .length ∧
    wordError 0x04000000 { ready with src := 0x181 } = some .bounds ∧ wordError 0x00000000 idle = none := by
  unfold EngineTurn
  decide +kernel

/-- Both sides of the equivalence: TD11, and a range with one byte missing at its end. -/
theorem witness_UnwrittenReadsStop :
    (∀ b, Instr.encode 2 ≠ .sesByte b) ∧ commandError (.encode 2) { idle with src := 0x1A } = none ∧
    readRanges (.encode 2) { idle with src := 0x1A } = [(0x1A, 2)] ∧
    (({ idle with src := 0x1A } : State).bufByte (0x1A + 1) = none) := by
  refine ⟨by simp, ?_⟩
  decide +kernel

theorem witness_BlockIsTenDoubleRounds : 15 < 16 ∧ 3 < 4 ∧ (salsa20Block v1State).getD (4 * 15 + 3) 0 = 0x17 := by
  decide +kernel

/-- The key at the last offset it fits, and one byte further. -/
theorem witness_KeysetupLoadsTheKey :
    (KeyFits .psk idle ∧ keyOperand .psk idle = some Config.exKey.toList) ∧
    (KeyFits .buf { filled idle with src := 0x160 } ∧
      keyOperand .buf { filled idle with src := 0x160 } = some (List.replicate 32 0)) ∧
    ¬ KeyFits .buf { idle with src := 0x161 } := by
  unfold KeyFits Fits
  decide +kernel

theorem witness_IvsetupLoadsTheNonce :
    (ready.csStage ≠ .empty ∧ NonceFits .nonce 0 ready ∧ nonceOperand .nonce 0 ready = some (List.replicate 8 0)) ∧
    (NonceFits .buf 0x178 (filled ready) ∧ nonceOperand .buf 0x178 (filled ready) = some (List.replicate 8 0)) ∧
    idle.csStage = .empty ∧ ¬ NonceFits .buf 0x179 ready := by
  unfold NonceFits Fits
  decide +kernel

theorem witness_GenblockStoresTheBlock :
    (ready.csStage = .ready ∧ Fits ready 0x140 64) ∧ idle.csStage ≠ .ready ∧ ¬ Fits ready 0x141 64 := by
  unfold Fits
  decide +kernel

theorem witness_BlockCounterAdvances : 15 < 16 ∧ 15 ≠ 8 ∧ 15 ≠ 9 := by decide

/-- No bytes at the very end of BUF (TC8), 70 bytes, the stage refused, and each range refused (TC10). -/
theorem witness_XcryptXorsTheKeystream :
    (ready.csStage = .ready ∧ Fits ready 0x180 0 ∧ ready.bufBytes 0x180 0 = some []) ∧
    (Fits ready 0x40 70 ∧ Fits ready 0xA0 70 ∧ (filled ready).bufBytes 0x40 70 = some (List.replicate 70 0)) ∧
    idle.csStage ≠ .ready ∧ ¬ (Fits ready 0x17F 2 ∧ Fits ready 0 2) ∧ ¬ (Fits ready 0 2 ∧ Fits ready 0x17F 2) := by
  unfold Fits
  decide +kernel

/-- A nonce in BUF, past the first result; `NONCE`. -/
theorem witness_XcryptTwiceGivesThePlaintext :
    (filled ready).csStage ≠ .empty ∧
    (NonceFits .buf 0x4D (filled ready) ∧ nonceOperand .buf 0x4D (filled ready) = some (List.replicate 8 0) ∧
      (0x48 : Half).toNat + 5 ≤ (0x4D : Half).toNat) ∧
    (NonceFits .nonce 0 (filled ready) ∧ nonceOperand .nonce 0 (filled ready) = some (List.replicate 8 0)) ∧
    Fits (filled ready) 0 5 ∧ Fits (filled ready) 0x48 5 ∧ Fits (filled ready) 0x50 5 ∧
    (filled ready).bufBytes 0 5 = some (List.replicate 5 0) ∧ (filled ready).cfg.ctrMode = .frozen := by
  unfold NonceFits Fits
  decide +kernel

theorem witness_FrozenModeReusesTheKeystream :
    ready.cfg.ctrMode = .frozen ∧ ready.csStage = .ready ∧ Fits ready 0 70 ∧ Fits ready 0xA0 70 ∧
    (filled ready).bufBytes 0 70 = some (List.replicate 70 0) ∧ 5 + 64 < 70 := by
  unfold Fits
  decide +kernel

theorem witness_KsLoadClassifiesTheRecord :
    State.reset.nvmByte State.reset.cfg.nvmMarkerAddr ≠ State.reset.cfg.markerValue ∧
    idle.nvmByte idle.cfg.nvmMarkerAddr = idle.cfg.markerValue := by decide +kernel

theorem witness_OneFlippedBitIsDetected :
    idle.cfg.wf ∧ 7 < 8 ∧ (∃ t, exec .ksLoad idle = .next t ∧ t.pskStatus = .valid) ∧ 32 ≤ 32 ∧
    (0x5A : Byte) ≠ idle.cfg.markerValue :=
  ⟨by decide +kernel, by decide, ⟨idle.load, rfl, by decide +kernel⟩, by decide, by decide +kernel⟩

theorem witness_KsVerifyClassifiesTheCandidate :
    (Fits idle 0x160 32 ∧ (filled idle).bufBytes 0x160 32 = some (List.replicate 32 0)) ∧ ¬ Fits idle 0x161 32 := by
  unfold Fits
  decide +kernel

theorem witness_KsStoreWritesTheRecord : idle.cfg.wf ∧ idle.pskStatus = .valid ∧ corrupt.pskStatus ≠ .valid := by
  decide +kernel

theorem witness_KsInitdefInstallsTheDefault :
    State.reset.cfg.wf ∧ State.reset.pskStatus = .invalid ∧ idle.pskStatus ≠ .invalid := by decide +kernel

theorem witness_StoreThenLoadIsValid : idle.cfg.wf ∧ idle.pskStatus = .valid := by decide +kernel

theorem witness_NonceIncAddsOne :
    (Fits idle 0x178 8 ∧ (filled idle).bufBytes 0x178 8 = some (List.replicate 8 0)) ∧ ¬ Fits idle 0x179 8 := by
  unfold Fits
  decide +kernel

/-- TN3 to TN6: equal, and each order at the first difference. -/
theorem witness_NonceCmpFindsTheFirstDifference :
    (Fits idle 0x178 8 ∧ NonceFits .nonce 0 idle ∧ (filled idle).bufBytes 0x178 8 = some (List.replicate 8 0) ∧
      nonceOperand .nonce 0 (filled idle) = some (List.replicate 8 0)) ∧
    (NonceFits .buf 0x178 idle ∧ nonceOperand .buf 0x178 (filled idle) = some (List.replicate 8 0)) ∧
    ¬ (Fits idle 0x179 8 ∧ NonceFits .nonce 0 idle) ∧ ¬ (Fits idle 0 8 ∧ NonceFits .buf 0x179 idle) := by
  unfold NonceFits Fits
  decide +kernel

theorem witness_greater :
    Greater [0xFF, 0, 0, 0, 0, 0, 0, 0] [0, 1, 0, 0, 0, 0, 0, 0] ∧ Greater [0, 0, 0, 0, 0, 0, 0, 1] (List.replicate 8 0) :=
  ⟨⟨0, by decide, by decide, by decide⟩, ⟨7, by decide, by decide, by decide⟩⟩

theorem witness_CompareIsAntisymmetric :
    ([0xFF, 0, 0, 0, 0, 0, 0, 0] : List Byte).length = 8 ∧ (List.replicate 8 (0 : Byte)).length = 8 ∧ (0xFF : Byte) ≠ 0 := by
  decide

/-- P4: a peer nonce that is Greater than `NONCE` = 0, and an equal one. -/
theorem witness_ResyncAdoptsAGreaterNonce :
    (Fits idle 0x178 8 ∧
      (idle.putBuf 0x178 [0, 5, 0, 0, 0, 0, 0, 0]).bufBytes 0x178 8 = some [0, 5, 0, 0, 0, 0, 0, 0] ∧
      Greater [0, 5, 0, 0, 0, 0, 0, 0] idle.nonce.toList) ∧
    ((filled idle).bufBytes 0x178 8 = some (List.replicate 8 0) ∧ ¬ Greater (List.replicate 8 0) idle.nonce.toList) ∧
    ¬ Fits idle 0x179 8 := by
  refine ⟨⟨by unfold Fits; decide +kernel, by decide +kernel, 1, by decide, by decide +kernel, by decide +kernel⟩,
    ⟨by decide +kernel, ?_⟩, by unfold Fits; decide +kernel⟩
  rintro ⟨i, hi, -, h⟩
  have : ∀ i < 8, ¬ idle.nonce.toList.getD i 0 < (List.replicate 8 (0 : Byte)).getD i 0 := by decide +kernel
  exact this i hi h

/-- No plaintext, the longest plaintext at the last place it fits, one byte too long, and each range refused. -/
theorem witness_EncodeWritesTheEnvelope :
    (8 + 0 ≤ idle.cfg.maxPayload ∧ Fits idle 0x180 0 ∧ Fits idle 0x178 (8 + 0) ∧ idle.bufBytes 0x180 0 = some []) ∧
    (8 + 88 ≤ idle.cfg.maxPayload ∧ Fits idle 0x128 88 ∧ Fits idle 0x120 (8 + 88) ∧
      (filled idle).bufBytes 0x128 88 = some (List.replicate 88 0)) ∧
    idle.cfg.maxPayload < 8 + 89 ∧ ¬ (Fits idle 0x180 1 ∧ Fits idle 0 (8 + 1)) ∧
    ¬ (Fits idle 0 1 ∧ Fits idle 0x178 (8 + 1)) := by
  unfold Fits
  decide +kernel

/-- The shortest and the longest envelope, TooShort at 8 and at 0 bytes, one byte too long, and each range refused. -/
theorem witness_DecodeWritesThePlaintext :
    (8 < 9 ∧ 9 ≤ idle.cfg.maxPayload ∧ Fits idle 0x177 9 ∧ Fits idle 0x17E (9 - 8 + 1) ∧
      (filled idle).bufBytes 0x177 9 = some (List.replicate 8 0 ++ [0])) ∧
    (96 ≤ idle.cfg.maxPayload ∧ Fits idle 0x120 96 ∧ Fits idle 0x127 (96 - 8 + 1) ∧
      (filled idle).bufBytes 0x120 96 = some (List.replicate 8 0 ++ List.replicate 88 0)) ∧
    (8 ≤ 8 ∧ Fits idle 0x178 8 ∧ Fits idle 0x180 0) ∧ idle.cfg.maxPayload < 97 ∧
    ¬ (Fits idle 0x179 8 ∧ (8 < 8 → Fits idle 0 (8 - 8 + 1))) ∧
    ¬ (Fits idle 0x10 10 ∧ (8 < 10 → Fits idle 0x17E (10 - 8 + 1))) := by
  unfold Fits
  decide +kernel

/-- TD1's envelope, carried to a second engine. -/
theorem witness_DecodeUndoesEncode :
    0 < 2 ∧ 8 + 2 ≤ idle.cfg.maxPayload ∧ Fits idle 0 2 ∧ Fits idle 0x10 (8 + 2) ∧
    (idle.putBuf 0 [0x48, 0x49]).bufBytes 0 2 = some [0x48, 0x49] ∧ listener.key = idle.key ∧
    listener.cfg.ctrMode = idle.cfg.ctrMode ∧ 8 + 2 ≤ listener.cfg.maxPayload ∧ Fits listener 0xC0 (8 + 2) ∧
    Fits listener 0x120 (2 + 1) ∧
    (listener.putBuf 0xC0 [0, 0, 0, 0, 0, 0, 0, 0, 0x3F, 0x61]).bufBytes 0xC0 (8 + 2) =
      some [0, 0, 0, 0, 0, 0, 0, 0, 0x3F, 0x61] := by
  unfold Fits
  decide +kernel

theorem witness_ModeSelectionByte : idle.session = .modeSelection := by decide +kernel

theorem witness_OperatingByteOutsideSender :
    sender.session = .operating ∧ (((0x6D : Byte) = 0x4D ∨ (0x6D : Byte) = 0x6D) ∧ sender.inlen = 0) ∧
    (listener.session = .operating ∧ ¬ (((0x0D : Byte) = 0x4D ∨ (0x0D : Byte) = 0x6D) ∧ listener.inlen = 0) ∧
      listener.mode = .listener) ∧ ({ listener with mode := .none } : State).mode = .none := by decide +kernel

/-- A byte that appends, one that overflows, `'M'` into a buffer that is not empty, and a submit. -/
theorem witness_SenderByteAppendsAndFlushes :
    sender.Inv ∧ almostFull.Inv ∧ (sender.session = .operating ∧ sender.mode = .sender) ∧
    (almostFull.session = .operating ∧ almostFull.mode = .sender) ∧
    ¬ (((0x41 : Byte) = 0x4D ∨ (0x41 : Byte) = 0x6D) ∧ sender.inlen = 0) ∧
    ¬ (((0x4D : Byte) = 0x4D ∨ (0x4D : Byte) = 0x6D) ∧ almostFull.inlen = 0) ∧
    ¬ (((0x0D : Byte) = 0x4D ∨ (0x0D : Byte) = 0x6D) ∧ almostFull.inlen = 0) :=
  ⟨sender_inv, almostFull_inv, by decide +kernel⟩

theorem witness_TypingHiSendsOneEnvelope :
    sender.Inv ∧ sender.session = .operating ∧ sender.mode = .sender ∧ sender.inlen = 0 ∧ sender.pskStatus = .valid ∧
    sender.sendPending = false ∧ 2 < sender.cfg.incap := ⟨sender_inv, by decide +kernel⟩

theorem witness_SesByteAlwaysCompletes : almostFull.Inv ∧ almostFull.bootPending = false :=
  ⟨almostFull_inv, by decide +kernel⟩

/-- The longest frame dropped, one too long, and a frame of 8 bytes taken. -/
theorem witness_SesRxWithoutDecryption :
    sender.session ≠ .initial ∧ sender.cfg.maxPayload < 97 ∧
    (¬ sender.cfg.maxPayload < 96 ∧ ¬ (sender.session = .operating ∧ sender.mode = .listener) ∧
      sender.cfg.rxPolicy = .drop) ∧
    (listener.session = .operating ∧ listener.mode = .listener ∧ 8 ≤ 8) := by decide +kernel

/-- A Listener, and a Sender with `P_RX_POLICY` = `Process`; the shortest and the longest frame. -/
theorem witness_SesRxDecryptsAndResyncs :
    listener.session ≠ .initial ∧ 8 < 9 ∧ 9 ≤ listener.cfg.maxPayload ∧ 96 ≤ listener.cfg.maxPayload ∧
    (listener.session = .operating ∧ listener.mode = .listener) ∧
    ({ sender with cfg := { Config.ex with rxPolicy := .process } } : State).cfg.rxPolicy = .process ∧
    (List.replicate 8 (0 : Byte)).length = 8 ∧
    (filled listener).bufBytes listener.cfg.rxBase 9 = some (List.replicate 8 0 ++ [0]) ∧
    (filled listener).bufBytes listener.cfg.rxBase 96 = some (List.replicate 8 0 ++ List.replicate 88 0) := by
  decide +kernel

theorem witness_SesConfirmEndsThePendingSend :
    ({ sender with sendPending := true } : State).session ≠ .initial ∧ State.reset.session = .initial := by decide +kernel

theorem witness_SesTickRecovers : sender.session ≠ .initial ∧ State.reset.session = .initial := by decide +kernel

/-- Each edge is taken somewhere: `'1'`, `'2'`, `'M'`, and SES_TICK from the state R250 recovers. -/
theorem witness_OnlyTheListedSessionEdges :
    (∃ t, exec (.sesByte 0x31) idle = .next t) ∧ (∃ t, exec (.sesByte 0x32) idle = .next t) ∧
    (∃ t, exec (.sesByte 0x4D) sender = .next t) ∧ ∃ t, exec .sesTick { sender with mode := .none } = .next t :=
  ⟨exists_next (by decide +kernel), exists_next (by decide +kernel), exists_next (by decide +kernel),
    exists_next (by decide +kernel)⟩

/-- A command of each kind that emits, and one that does not. -/
theorem witness_EventsAreAppendedByTheirCommands :
    (∃ t, exec (.sesByte 0x31) idle = .next t) ∧ (∃ t, exec (.sesRx 8) listener = .next t) ∧
    ∃ t, exec .nop idle = .next t :=
  ⟨exists_next (by decide +kernel), exists_next (by decide +kernel), _, rfl⟩

theorem witness_HostRegistersAreTheHosts :
    ∃ t, exec .genblock idle = .next t ∧ t.err = true ∧ ({ idle with err := true } : State).err = true :=
  ⟨_, rfl, by decide +kernel, rfl⟩

/-- Each premise of `OnlyTheListedWriters` holds of NOP. -/
theorem witness_OnlyTheListedWriters :
    (∃ t, exec .nop idle = .next t) ∧ Instr.nop ≠ .ksLoad ∧ Instr.nop ≠ .ksInitdef ∧ (∀ b, Instr.nop ≠ .sesByte b) ∧
    (∀ len, Instr.nop ≠ .sesRx len) ∧ (∀ sel, Instr.nop ≠ .nonceCmp sel) ∧ (∀ k, Instr.nop ≠ .sesConfirm k) :=
  ⟨⟨_, rfl⟩, by simp⟩

/-- An address next to a stored range, on either side. -/
theorem witness_OnlyTheStoredRangesChange :
    (∃ t, exec .genblock { ready with dst := 0x40 } = .next t) ∧
    ∀ r ∈ storedRanges .genblock { ready with dst := 0x40 },
      (0x3F < r.1 ∨ r.1 + r.2 ≤ 0x3F) ∧ (0x80 < r.1 ∨ r.1 + r.2 ≤ 0x80) :=
  ⟨exists_next (by decide +kernel), by decide +kernel⟩

/-- An append as Sender; the first and the last address of the TX region. -/
theorem witness_PendingSendIsKept :
    ({ almostFull with sendPending := true } : State).sendPending = true ∧
    (∃ t, exec (.sesByte 0x41) { almostFull with sendPending := true } = .next t) ∧
    (∀ k, Instr.sesByte 0x41 ≠ .sesConfirm k) ∧ ({ almostFull with sendPending := true } : State).Inv ∧
    (∃ b, Instr.sesByte 0x41 = .sesByte b) ∧
    (almostFull.cfg.txBase ≤ 96 ∧ 96 < almostFull.cfg.rxBase ∧ almostFull.cfg.txBase ≤ 191 ∧ 191 < almostFull.cfg.rxBase) :=
  ⟨rfl, exists_next (by decide +kernel), by simp, by constructor <;> decide +kernel, ⟨_, rfl⟩, by decide +kernel⟩

theorem witness_EventWords : ([0x41, 0x2E, 0x7A] : List Byte).length < 2 ^ 16 := by decide

/-- The first and the last reserved register address. -/
theorem witness_RegisterMapReads :
    idle.busy = false ∧
    (0x0000F < (0x00010 : BitVec 17).toNat ∧ (0x00010 : BitVec 17).toNat < 0x10000) ∧
    (0x38 ≤ (0x00038 : BitVec 17).toNat ∧ (0x00038 : BitVec 17).toNat < 0x10000 ∧ (0x00038 : BitVec 17).toNat % 4 = 0) ∧
    (0x38 ≤ (0x0FFFC : BitVec 17).toNat ∧ (0x0FFFC : BitVec 17).toNat < 0x10000 ∧ (0x0FFFC : BitVec 17).toNat % 4 = 0) := by
  decide +kernel

/-- The first and the last byte and the last word of BUF, the first reserved address past it, and the last one. -/
theorem witness_BufWindow :
    idle.busy = false ∧ ((0x10000 : BitVec 17).toNat = 0x10000 + 0 ∧ 0 < idle.cfg.bufSize) ∧
    ((0x1017F : BitVec 17).toNat = 0x10000 + 383 ∧ 383 < idle.cfg.bufSize ∧ (filled idle).bufByte 383 = some 0) ∧
    ((0x1017C : BitVec 17).toNat = 0x10000 + 380 ∧ 380 % 4 = 0 ∧ 380 < idle.cfg.bufSize ∧
      (filled idle).bufBytes 380 4 = some [0, 0, 0, 0]) ∧
    0x10000 + idle.cfg.bufSize ≤ (0x10180 : BitVec 17).toNat ∧ 0x10000 + idle.cfg.bufSize ≤ (0x1FFFF : BitVec 17).toNat ∧
    (0x1FFFC : BitVec 17).toNat % 4 = 0 := by decide +kernel

theorem witness_BusErrorsChangeNothing :
    (Width.byte = .byte ∧ (0x0FFFF : BitVec 17).toNat < 0x10000) ∧
    (Width.word = .word ∧ (0x10001 : BitVec 17).toNat % 4 ≠ 0) ∧ Width.half = .half := by decide +kernel

/-- The last BUF byte and word, and the edges of the two ranges of addresses where a write changes nothing. -/
theorem witness_WritesWhileBusyAreDropped :
    ({ idle with busy := true } : State).busy = true ∧
    ((0x1017F : BitVec 17).toNat = 0x10000 + 383 ∧ 383 < idle.cfg.bufSize) ∧
    ((0x1017C : BitVec 17).toNat = 0x10000 + 380 ∧ 380 < idle.cfg.bufSize ∧ 380 % 4 = 0) ∧
    (0x0000F < (0x00010 : BitVec 17).toNat ∧ (0x0FFFF : BitVec 17).toNat < 0x10000) ∧
    0x10000 + idle.cfg.bufSize ≤ (0x10180 : BitVec 17).toNat := by decide +kernel

theorem witness_ReadsHaveNoSideEffect : idle.busy = false := by decide +kernel

/-- `DO KEYSETUP psk` and then a read of `RESULT`. -/
theorem witness_DoRunsTheCommand :
    idle.cfg.wf ∧ idle.busy = false ∧ (Instr.keysetup .psk).wellFormed = true ∧
    ({ idle with turns := (doCommand (.keysetup .psk)).flatMap HostAction.turns ++ [.host (.read .word 0x00010)] } :
        State).turns = (doCommand (.keysetup .psk)).flatMap HostAction.turns ++ [.host (.read .word 0x00010)] ∧
    idle.bootPending = false ∧
    ∃ t, exec (.keysetup .psk) { idle with
      cmdLatch := encode (.keysetup .psk), busy := true, reply := some .done, freeCtr := idle.freeCtr + 1
      turns := [.host (.read .word 0x00004), .host (.read .word 0x00010)] } = .next t :=
  ⟨by decide +kernel, by decide +kernel, by decide, rfl, by decide +kernel, exists_next (by decide +kernel)⟩

theorem witness_ResetValues : idle.cfg.wf ∧ ({ idle with turns := [.reset] } : State).turns = .reset :: [] := by
  decide +kernel

/-- An erased NVM, a valid record and a corrupt one. -/
theorem witness_ResetSequence :
    EngineTurn State.reset [] ∧ State.reset.busy = true ∧ State.reset.bootPending = true ∧
    State.reset.nvmByte State.reset.cfg.nvmMarkerAddr ≠ State.reset.cfg.markerValue ∧
    EngineTurn (State.powerOn Config.ex nvmValid) [] ∧
    (State.powerOn Config.ex nvmValid).loadOutcome = .valid ∧ (State.powerOn Config.ex corrupt.nvm).loadOutcome = .error := by
  unfold EngineTurn
  decide +kernel

theorem witness_ResetHasTheInvariant : Config.ex.wf ∧ Memory.wf Config.ex.nvmSize Memory.nvmBlank nvmValid := by
  decide +kernel

/-- A command, the reset sequence, a host access and a reset. -/
theorem witness_StepKeepsTheInvariant :
    (idle.Inv ∧ ∃ t, step idle = .next t) ∧
    (corrupt.Inv ∧ ∃ t, step corrupt = .next t) ∧
    (∃ t, step { idle with busy := true, cmdLatch := 0x01000000 } = .next t) ∧
    ∃ t, step { idle with turns := [.host (.write .byte 0x10000 1)] } = .next t :=
  ⟨⟨idle_inv, exists_next (by decide +kernel)⟩, ⟨corrupt_inv, exists_next (by decide +kernel)⟩,
    exists_next (by decide +kernel), exists_next (by decide +kernel)⟩

/-- A corrupt record, and a reset next. -/
theorem witness_CorruptKeyIsPermanent :
    corrupt.Inv ∧ CorruptRecord corrupt ∧ (corrupt.bootPending = false → corrupt.pskStatus = .error) ∧
    ∃ t, step corrupt = .next t :=
  ⟨corrupt_inv, by unfold CorruptRecord; decide +kernel, by decide +kernel, exists_next (by decide +kernel)⟩

end Sys2Proof.Tests
end

section
/-! The invariant over one step: the updates that `Laws/Invariant` leaves out, the commands, the engine's turn, the host's
accesses and the reset input (20_memory R97). -/

namespace Sys2Proof.Machine

variable {s t : State}

/-! Updates of the fields the invariant speaks of. -/

/-- A move of the session controller after the reset sequence; an Operating session has its mode (44_session R230, R242). -/
theorem State.Inv.withSession (hi : s.Inv) {x : Session} {m : Mode} (hs : s.session ≠ .initial) (hx : x ≠ .initial)
    (hm : x = .operating → m ≠ .none) : ({ s with session := x, mode := m } : State).Inv := by
  have hb : s.bootPending ≠ true := fun h => hs (hi.boot_session.mp h)
  obtain ⟨h1, h2, h3, h4, h5, h6, -, -, h9, h10, h11, h12, h13⟩ := hi
  exact ⟨h1, h2, h3, h4, h5, h6, iff_of_false hb hx, hm, h9, h10, h11, h12, h13⟩

theorem State.Inv.promptMode (hi : s.Inv) (hs : s.session ≠ .initial) : s.promptMode.Inv :=
  (hi.withSession (x := .modeSelection) (m := s.mode) hs nofun nofun).of_free rfl

theorem State.Inv.selectMode (hi : s.Inv) {m : Mode} (hs : s.session ≠ .initial) (hm : m ≠ .none) (addr : Half)
    (n : Notice) : (s.selectMode m addr n).Inv :=
  (hi.withSession (x := .operating) (m := m) hs nofun fun _ => hm).of_free rfl

/-- A new `KEY` and `PSK_STATUS`, decided once the reset sequence has ended (41_keystore R171). -/
theorem State.Inv.withPsk (hi : s.Inv) (k : Vector Byte 32) {p : PskStatus}
    (hp : s.bootPending = false → p ≠ .invalid) : ({ s with key := k, pskStatus := p } : State).Inv := by
  obtain ⟨h1, h2, h3, h4, h5, h6, h7, h8, h9, -, h11, h12, h13⟩ := hi
  exact ⟨h1, h2, h3, h4, h5, h6, h7, h8, h9, hp, h11, h12, h13⟩

/-- A load that finds the marker decides `PSK_STATUS` (41_keystore R171). -/
theorem State.loadOutcome_ne_invalid (h : s.markerMatches = true) : s.loadOutcome ≠ .invalid := by
  unfold State.loadOutcome
  rw [if_pos h]
  split <;> nofun

theorem State.Inv.load (hi : s.Inv) : s.load.Inv :=
  (hi.withPsk s.load.key fun hb => State.loadOutcome_ne_invalid (hi.marker_stored hb)).of_free s.load_eq

theorem State.Inv.initDefault (hi : s.Inv) : s.initDefault.Inv :=
  (hi.storeSeq (key := s.cfg.defaultPsk.toList) (by simp)).withPsk s.cfg.defaultPsk nofun

/-- Once a key is set up the cipher state is one that `CipherOk` admits (40_cipher R147, R149). -/
theorem State.Inv.cipherOk (hi : s.Inv) (hs : s.csStage ≠ .empty) : CipherOk s.cfg.ctrMode s.cs :=
  ⟨hi.constant_words hs, hi.counter_frozen⟩

theorem State.Inv.withCipher (hi : s.Inv) {x : Vector Word 16} {stage : CsStage} (hc : CipherOk s.cfg.ctrMode x) :
    ({ s with cs := x, csStage := stage } : State).Inv :=
  hi.cipherState (fun _ => hc.1) hc.2

theorem CipherOk.keySetup (mode : CtrMode) (key : List Byte) (x : Vector Word 16) : CipherOk mode (keyWords key x) :=
  ⟨⟨rfl, rfl, rfl, rfl⟩, fun _ => ⟨rfl, rfl⟩⟩

theorem CipherOk.ivSetup {mode : CtrMode} {x : Vector Word 16} (h : CipherOk mode x) (nonce : List Byte) :
    CipherOk mode (ivWords nonce x) := by
  obtain ⟨hsigma, -⟩ := h
  constructor
  · simpa [ivWords] using hsigma
  · simp [ivWords]

theorem State.Inv.resync (hi : s.Inv) (peer : List Byte) : (s.resync peer).Inv := by
  rw [State.resync_eq]
  exact hi.of_free rfl

theorem State.Inv.received (hi : s.Inv) (hdr pt : List Byte) (len : Nat) : (s.received hdr pt len).Inv := by
  rw [State.received_eq]
  exact hi.of_free rfl

/-! The input buffer (44_session R238). -/

/-- One more than `INLEN` does not wrap: `P_INCAP` is far below 2^16 (00_scope R9). -/
theorem State.Inv.inlen_succ (hi : s.Inv) : (s.inlen + 1).toNat = s.inlen.toNat + 1 := by
  have hlt := hi.inlen_lt
  obtain ⟨-, hmax, -, hcap, -⟩ := hi.cfg_ok
  rw [BitVec.toNat_add, show (1 : Half).toNat = 1 from rfl]
  omega

/-- The input buffer with the byte just stored is still written throughout (10_state R40). -/
theorem State.Inv.appended (hi : s.Inv) {b : Byte} (hfits : s.cfg.inBase + s.inlen.toNat + 1 ≤ s.cfg.bufSize)
    (hroom : (s.inlen + 1).toNat ≠ s.cfg.incap) : (s.appended b).Inv := by
  have hsucc := hi.inlen_succ
  have hput := hi.putBuf (a := s.cfg.inBase + s.inlen.toNat) (bs := [b]) hfits
  have hlt : (s.inlen + 1).toNat < s.cfg.incap := by have := hi.inlen_lt; omega
  have hlast : ((s.putBuf (s.cfg.inBase + s.inlen.toNat) [b]).bufByte (s.cfg.inBase + s.inlen.toNat)).isSome := by
    unfold State.bufByte
    rw [State.putBuf_buf, Memory.read_writeBytes]
    simp
  have hwritten : ∀ i < (s.inlen + 1).toNat,
      ((s.putBuf (s.cfg.inBase + s.inlen.toNat) [b]).bufByte (s.cfg.inBase + i)).isSome := by
    intro i h
    rcases Nat.lt_or_eq_of_le (show i ≤ s.inlen.toNat by omega) with h | rfl
    · exact hput.input_written i h
    · exact hlast
  obtain ⟨h1, h2, h3, -, -, h6, h7, h8, h9, h10, h11, h12, h13⟩ := hput
  exact ⟨h1, h2, h3, hlt, hwritten, h6, h7, h8, h9, h10, h11, h12, h13⟩

theorem ByteEffect.inv {b : Byte} (hi : s.Inv) (h : ByteEffect b s t) : t.Inv := by
  cases h with
  | error e hs h => subst h; exact hi.takeError _ _
  | sender hs hb h => subst h; exact hi.selectMode (by simp [hs]) (by simp) _ _
  | listener hs hb h => subst h; exact hi.selectMode (by simp [hs]) (by simp) _ _
  | same h => subst h; exact hi
  | invalid h => subst h; exact hi.of_free rfl
  | prompt hs hb h => subst h; exact hi.promptMode (by simp [hs])
  | redisplay h => subst h; exact hi.of_free rfl
  | appended hs hfits hroom h => subst h; exact hi.appended hfits hroom
  | overflow hs hfits hfull h =>
    have hempty : ({ (s.appended b).emit (.notice .inputOverflowFlushed) with inlen := 0 } : State).Inv :=
      (hi.putBuf (a := s.cfg.inBase + s.inlen.toNat) (bs := [b]) hfits).emptied.of_free rfl
    exact h.inv hempty
  | submit hs h => exact h.inv hi.emptied

/-! The commands. -/

theorem receive_inv {len : Nat} (hi : s.Inv) (h : receive len s = .next t) : t.Inv := by
  rcases receive_next h with ⟨-, rfl⟩ | ⟨-, hdr, ct, -, hct, hfits, rfl⟩
  · exact hi.of_free rfl
  · exact (hi.decoded (by rw [State.bufBytes_length hct]; exact hfits)).received _ _ _

/-- Every command keeps the invariant. -/
theorem exec_inv {i : Instr} (hi : s.Inv) (h : exec i s = .next t) : t.Inv := by
  cases i with
  | nop => rw [execNop_next.mp h]; exact hi
  | keysetup sel =>
    rcases execKeysetup_next h with ⟨e, rfl⟩ | ⟨key, rfl⟩
    · exact hi.takeError _ _
    · exact hi.withCipher (CipherOk.keySetup _ _ _)
  | ivsetup sel =>
    rcases execIvsetup_next h with ⟨e, rfl⟩ | ⟨hs, n, rfl⟩
    · exact hi.takeError _ _
    · exact hi.withCipher ((hi.cipherOk hs).ivSetup n)
  | genblock =>
    rcases execGenblock_next h with ⟨e, rfl⟩ | ⟨hfits, rfl⟩
    · exact hi.takeError _ _
    · exact hi.putBuf (by rw [salsa20Block_length]; exact hfits)
  | xcrypt len =>
    rcases execXcrypt_next h with ⟨e, rfl⟩ | ⟨input, hin, hfits, hs, rfl⟩
    · exact hi.takeError _ _
    · have hput := hi.putBuf (a := s.dst.toNat) (bs := (xcrypt s.cfg.ctrMode s.cs input).1)
        (by rw [xcrypt_length, State.bufBytes_length hin]; exact hfits)
      refine hput.withCipher (stage := s.csStage) ?_
      rw [xcrypt_state]
      exact (hi.cipherOk (by simp [hs])).iterate _
  | ksLoad => rw [execKsLoad_next.mp h]; exact hi.load
  | ksVerify =>
    rcases execKsVerify_next h with ⟨e, rfl⟩ | ⟨v, rfl⟩
    · exact hi.takeError _ _
    · exact hi.of_free rfl
  | ksStore =>
    rcases execKsStore_next h with ⟨e, rfl⟩ | ⟨-, rfl⟩
    · exact hi.takeError _ _
    · exact hi.storeSeq (by simp)
  | ksInitdef =>
    rcases execKsInitdef_next h with ⟨e, rfl⟩ | ⟨-, rfl⟩
    · exact hi.takeError _ _
    · exact hi.initDefault
  | nonceInc sel =>
    rcases execNonceInc_next h with ⟨e, rfl⟩ | ⟨-, rfl⟩ | ⟨-, n, hn, hfits, rfl⟩
    · exact hi.takeError _ _
    · exact hi.of_free rfl
    · exact hi.putBuf (by rw [incBytes_length, State.bufBytes_length hn]; exact hfits)
  | nonceCmp sel =>
    rcases execNonceCmp_next h with ⟨e, rfl⟩ | ⟨v, rfl⟩
    · exact hi.takeError _ _
    · exact hi.of_free rfl
  | resync =>
    rcases execResync_next h with ⟨e, rfl⟩ | ⟨peer, v, rfl⟩
    · exact hi.takeError _ _
    · exact (hi.resync peer).of_free rfl
  | encode len =>
    rcases execEncode_next h with ⟨e, rfl⟩ | ⟨pt, v, hpt, hfits, rfl⟩
    · exact hi.takeError _ _
    · exact (hi.encoded (by rw [State.bufBytes_length hpt]; exact hfits)).of_free rfl
  | decode len =>
    rcases execDecode_next h with ⟨e, rfl⟩ | ⟨-, v, rfl⟩ | ⟨-, hdr, ct, v, hct, hfits, rfl⟩
    · exact hi.takeError _ _
    · exact hi.of_free rfl
    · exact (hi.decoded (by rw [hct]; exact hfits)).of_free rfl
  | sesByte b => exact (execSesByte_effect h).inv hi
  | sesRx len =>
    rcases execSesRx_next h with ⟨e, rfl⟩ | ⟨-, -, ⟨-, rfl⟩ | ⟨-, h⟩⟩
    · exact hi.takeError _ _
    · exact hi.of_free rfl
    · exact receive_inv (hi.of_free rfl) h
  | sesConfirm c =>
    rcases execSesConfirm_next h with ⟨e, rfl⟩ | rfl | ⟨-, rfl⟩
    · exact hi.takeError _ _
    · exact hi
    · exact hi.of_free rfl
  | sesTick =>
    rcases execSesTick_next h with ⟨e, rfl⟩ | rfl | ⟨hs, -, rfl⟩
    · exact hi.takeError _ _
    · exact hi
    · exact hi.promptMode (by simp [hs])

/-- No command touches the bit that says the reset sequence is to run (70_reset R311). -/
theorem exec_bootPending {i : Instr} (h : exec i s = .next t) : t.bootPending = s.bootPending := by
  rcases exec_framed h with ⟨e, rfl⟩ | h
  · rfl
  · cases i with
    | nonceInc sel => cases sel <;> (dsimp only at h; rw [h])
    | _ => dsimp only at h; rw [h]

/-! The engine's turn (60_exceptions R280). -/

theorem State.Inv.complete (hi : s.Inv) (hb : s.bootPending = false) : s.complete.Inv := by
  obtain ⟨h1, h2, h3, h4, h5, -, h7, h8, h9, h10, h11, h12, h13⟩ := hi
  exact ⟨h1, h2, h3, h4, h5, fun h => absurd (hb.symm.trans h) nofun, h7, h8, h9, h10, h11, h12, h13⟩

/-- The end of the reset sequence, which owes a stored record and a decided `PSK_STATUS` (70_reset R311). -/
theorem State.Inv.bootEnded (hi : s.Inv) (hm : s.markerMatches = true) (k : Vector Byte 32) {p : PskStatus}
    (hp : p ≠ .invalid) :
    ({ s with key := k, pskStatus := p, session := .modeSelection, busy := false, bootPending := false } : State).Inv := by
  obtain ⟨h1, h2, h3, h4, h5, -, -, -, -, -, h11, h12, h13⟩ := hi
  exact ⟨h1, h2, h3, h4, h5, nofun, iff_of_false nofun nofun, nofun, fun _ => hm, fun _ => hp, h11, h12, h13⟩

theorem State.Inv.resetSequence (hi : s.Inv) : s.resetSequence.Inv := by
  cases hm : s.markerMatches with
  | false =>
    have hkey : s.cfg.defaultPsk.toList.length = 32 := by simp
    rw [State.resetSequence_invalid hm]
    exact ((hi.storeSeq hkey).bootEnded (State.storeSeq_markerMatches hkey) _ (p := .valid) nofun).of_free rfl
  | true =>
    rw [State.resetSequence_stored hm]
    exact (hi.bootEnded hm s.storedKey (State.loadOutcome_ne_invalid hm)).of_free rfl

theorem engineTurn_inv (hi : s.Inv) (h : engineTurn s = .next t) : t.Inv := by
  rcases engineTurn_next h with ⟨-, rfl⟩ | ⟨-, -, rfl⟩ | ⟨-, hb, ⟨e, -, rfl⟩ | ⟨i, u, -, hu, rfl⟩⟩
  · exact hi
  · exact hi.resetSequence
  · exact (hi.takeError _ _).complete hb
  · exact (exec_inv hi hu).complete ((exec_bootPending hu).trans hb)

/-! The host's accesses (10_state R52 to R55, 20_memory R91, R93). -/

theorem State.Inv.issue (hi : s.Inv) (v : Word) : (s.issue v).Inv := by
  obtain ⟨h1, h2, h3, h4, h5, -, h7, h8, h9, h10, h11, h12, h13⟩ := hi
  exact ⟨h1, h2, h3, h4, h5, fun _ => rfl, h7, h8, h9, h10, h11, h12, h13⟩

theorem State.Inv.writeReg (hi : s.Inv) (r : Reg) (v : Word) : (s.writeReg r v).Inv := by
  unfold State.writeReg
  split
  · split
    · exact hi.of_free rfl
    · exact hi.issue v
  · exact hi.of_free rfl
  · split <;> exact hi.of_free rfl
  · split <;> exact hi.of_free rfl
  · exact hi

theorem State.Inv.writeWindow (hi : s.Inv) (offset bytes : Nat) (v : Word) : (s.writeWindow offset bytes v).Inv := by
  unfold State.writeWindow
  split
  · split
    · exact hi.of_free rfl
    · exact hi.putBuf (by rw [List.length_take]; omega)
  · exact hi

theorem State.Inv.writeEffect (hi : s.Inv) (width : Width) (addr : BitVec 17) (v : Word) :
    (s.writeEffect width addr v).Inv := by
  unfold State.writeEffect
  split
  · exact hi.writeReg _ v
  · exact hi
  · exact hi.writeWindow _ _ v
  · exact hi

theorem State.Inv.access (hi : s.Inv) (a : Access) : (s.access a).Inv := by
  cases a with
  | read width addr => exact hi.of_free rfl
  | write width addr v => exact (hi.writeEffect width addr v).of_free rfl

/-! The reset input (70_reset R310, R312). -/

theorem State.powerOn_inv {cfg : Config} {nvm : List Host.Cell} (hc : cfg.wf)
    (hn : Memory.wf cfg.nvmSize Memory.nvmBlank nvm) : (State.powerOn cfg nvm).Inv where
  cfg_ok := hc
  buf_ok := Memory.nil_wf
  nvm_ok := hn
  inlen_lt := by
    obtain ⟨-, -, hcap, -⟩ := hc
    exact hcap
  input_written _ h := absurd h (Nat.not_lt_zero _)
  boot_busy _ := rfl
  boot_session := iff_of_true rfl rfl
  mode_selected := nofun
  marker_stored := nofun
  psk_decided := nofun
  constant_words h := absurd rfl h
  counter_frozen _ := ⟨rfl, rfl⟩
  error_code := Nat.zero_le _

theorem State.Inv.applyReset (hi : s.Inv) : s.applyReset.Inv :=
  (State.powerOn_inv hi.cfg_ok hi.nvm_ok).of_free rfl

end Sys2Proof.Machine

namespace Sys2Proof.Claims

open Sys2Proof.Machine

/-- Settles O59: each of the turns of 20_memory R97 keeps the invariant. -/
theorem stepKeepsTheInvariant : Obligations.StepKeepsTheInvariant := by
  intro s t hi h
  have turn : ∀ rest, ({ s with turns := rest } : State).Inv := fun _ => hi.of_free rfl
  obtain ⟨-, ⟨a, rest, -, rfl⟩ | ⟨rest, -, rfl⟩ | ⟨rest, -, h⟩⟩ := step_next h
  · exact (turn rest).access a
  · exact (turn rest).applyReset
  · exact engineTurn_inv (turn rest) h

end Sys2Proof.Claims
end

section
/-! Which fields a command can change at all, read off `exec_framed`: the host's registers are not among them (10_state R46
to R50), and each engine register has its listed writers (10_state R32 to R45, R59, 20_memory R88). -/

namespace Sys2Proof.Machine

variable {i : Instr} {s t : State}

/-- A command raises an error, or writes fields of the engine's own: `ERR`, `ERRINFO` and all that is the host's or the model's
stay. -/
theorem exec_error_or_engineFields (h : exec i s = .next t) :
    (∃ e, t = s.takeError i.opcode e) ∨
    t = { s with
      key := t.key, pskStatus := t.pskStatus, nonce := t.nonce, cs := t.cs, csStage := t.csStage, session := t.session
      mode := t.mode, localAddr := t.localAddr, inlen := t.inlen, txlen := t.txlen, ptlen := t.ptlen
      sendPending := t.sendPending, confFail := t.confFail, result := t.result
      buf := t.buf, nvm := t.nvm, nvmLog := t.nvmLog, events := t.events } := by
  refine (exec_framed h).imp_right fun h => ?_
  cases i with
  | nonceInc sel => cases sel <;> (dsimp only at h; rw [h])
  | _ => dsimp only at h; rw [h]

end Sys2Proof.Machine

namespace Sys2Proof.Claims

open Sys2Proof.Machine

/-- Settles O44: neither an error nor an effect writes a register of the host's, and an error sets `ERR`. -/
theorem hostRegistersAreTheHosts : Obligations.HostRegistersAreTheHosts := by
  intro i s t h
  rcases exec_error_or_engineFields h with ⟨e, rfl⟩ | h
  · simp
  · rw [h]
    simp

/-- Settles O45: an error writes none of these registers, and the effect of a command only those its frame lists. -/
theorem onlyTheListedWriters : Obligations.OnlyTheListedWriters := by
  intro i s t h
  rcases exec_framed h with ⟨e, rfl⟩ | h
  · simp
  · cases i with
    | nonceInc sel => cases sel <;> (dsimp only at h; rw [h]; simp)
    | _ => dsimp only at h; rw [h]; simp

end Sys2Proof.Claims
end

section
/-! The host's register map: what each address reaches, the fields of `STATUS`, and which registers a write moves (10_state
R52 to R55). -/

namespace Sys2Proof.Machine

variable {s : State} {a : BitVec 17} {width : Width}

theorem regAt_eq_some {n : Nat} {r : Reg} (h : regAt n = some r) : r.offset = n := by
  unfold regAt at h
  split at h <;> cases h <;> rfl

theorem busTarget_reg (r : Reg) : busTarget .word (BitVec.ofNat 17 r.offset) = .reg r := by
  cases r <;> rfl

theorem busTarget_reserved (hlo : 0x38 ≤ a.toNat) (hhi : a.toNat < windowBase) (hal : a.toNat % 4 = 0) :
    busTarget .word a = .reserved := by
  unfold busTarget
  simp only
  rw [if_pos hhi, if_pos ⟨trivial, hal⟩, regAt_none hlo]

/-- Below the window an access reaches the register at its offset, or nothing. -/
theorem busTarget_below_window (h : a.toNat < windowBase) :
    (∃ r : Reg, r.offset = a.toNat ∧ busTarget width a = .reg r) ∨ busTarget width a = .reserved ∨
      busTarget width a = .badAccess := by
  unfold busTarget
  simp only
  rw [if_pos h]
  split
  · split
    · next r hr => exact .inl ⟨r, regAt_eq_some hr, rfl⟩
    · exact .inr (.inl rfl)
  · exact .inr (.inr rfl)

theorem State.readReply_reg (s : State) (r : Reg) :
    s.readReply .word (BitVec.ofNat 17 r.offset) = .word (s.readReg r) := by
  unfold State.readReply
  rw [busTarget_reg]

theorem State.writeEffect_reg (s : State) (r : Reg) (v : Word) :
    s.writeEffect .word (BitVec.ofNat 17 r.offset) v = s.writeReg r v := by
  unfold State.writeEffect
  rw [busTarget_reg]

/-- 10_state R53: where each field of `STATUS` stands in the concatenation. -/
theorem State.statusWord_fields (s : State) :
    s.statusWord.extractLsb' 0 1 = BitVec.ofBool s.busy ∧ s.statusWord.extractLsb' 1 1 = BitVec.ofBool s.err ∧
    s.statusWord.extractLsb' 2 1 = BitVec.ofBool s.ovr ∧ s.statusWord.extractLsb' 3 1 = 0 ∧
    s.statusWord.extractLsb' 4 2 = s.pskStatus.code ∧ s.statusWord.extractLsb' 6 2 = s.csStage.code ∧
    s.statusWord.extractLsb' 8 2 = s.session.code ∧ s.statusWord.extractLsb' 10 2 = s.mode.code ∧
    s.statusWord.extractLsb' 12 1 = BitVec.ofBool s.sendPending ∧
    s.statusWord.extractLsb' 13 1 = BitVec.ofBool s.confFail ∧ s.statusWord.extractLsb' 14 18 = 0 := by
  unfold State.statusWord
  simp (disch := decide) only [BitVec.extractLsb'_append_eq_of_add_le, BitVec.extractLsb'_append_eq_of_le,
    Nat.reduceSub, BitVec.extractLsb'_eq_self, and_self]

/-- 10_state R53: writing 1 to bit 1 clears `ERR`, to bit 2 `OVR`. -/
theorem State.clearFlags_eq (s : State) (v : Word) :
    s.clearFlags v =
      { s with
        err := if v.getLsbD 1 then false else s.err
        ovr := if v.getLsbD 2 then false else s.ovr } := by
  unfold State.clearFlags
  cases v.getLsbD 1 <;> cases v.getLsbD 2 <;> simp

theorem State.readReg_status (s : State) : s.readReg .status = s.statusWord := if_neg fun h => h.2 rfl

theorem State.readReg_idle (h : s.busy = false) (r : Reg) : s.readReg r = s.regValue r := if_neg (by simp [h])

/-- Only `CMD`, `STATUS`, `SRC` and `DST` take writes (10_state R52). -/
theorem State.writeReg_of_above_dst {r : Reg} (h : Reg.dst.offset < r.offset) (v : Word) : s.writeReg r v = s := by
  cases r with
  | cmd | status | src | dst => exact absurd h (by decide)
  | _ => rfl

theorem State.writeEffect_above_dst (hlo : 0xF < a.toNat) (hhi : a.toNat < windowBase) (v : Word) :
    s.writeEffect width a v = s := by
  unfold State.writeEffect
  rcases busTarget_below_window (width := width) hhi with ⟨r, hr, ht⟩ | ht | ht
  · rw [ht]
    exact State.writeReg_of_above_dst (show 0xC < r.offset by omega) v
  · rw [ht]
  · rw [ht]

/-- 10_state R52: `P_MAXPAYLOAD` in bits 15:0, `P_INCAP` in bits 31:16. -/
theorem cfg0_eq (c : Config) :
    cfg0 c = BitVec.ofNat 32 (c.maxPayload % 2 ^ 16 + c.incap % 2 ^ 16 * 2 ^ 16) := by
  apply BitVec.eq_of_toNat_eq
  rw [cfg0, BitVec.toNat_append, ← Nat.shiftLeft_add_eq_or_of_lt (BitVec.isLt _)]
  simp only [BitVec.toNat_ofNat, Nat.shiftLeft_eq]
  omega

/-- 10_state R54: one bit for each mode parameter. -/
theorem cfg1_eq (c : Config) :
    cfg1 c = (if c.ctrMode = .advance then 1 else 0) + (if c.emptyFlush = .send then 2 else 0) +
      (if c.rxPolicy = .process then 4 else 0) := by
  unfold cfg1
  cases c.ctrMode <;> cases c.emptyFlush <;> cases c.rxPolicy <;> rfl

end Sys2Proof.Machine

namespace Sys2Proof.Claims

open Sys2Proof.Machine

/-- Settles O48: `STATUS` is the concatenation of its fields, and a write is `clearFlags`. -/
theorem statusRegister : Obligations.StatusRegister := by
  constructor
  · intro s
    have hread := (s.readReply_reg .status).trans (congrArg Reply.word s.readReg_status)
    exact ⟨hread, s.statusWord_fields⟩
  · intro s v
    refine (s.writeEffect_reg .status v).trans ?_
    exact s.clearFlags_eq v

/-- Settles O49: an address reaches the register at its offset, and only the registers up to `DST` take writes. -/
theorem registerMapReads : Obligations.RegisterMapReads := by
  refine ⟨fun s hidle => ?_, fun s a hlo hhi hal => ?_, fun s v hidle => ?_, fun s width a v hlo hhi => ?_⟩
  · have read (r : Reg) : s.readReply .word (BitVec.ofNat 17 r.offset) = .word (s.regValue r) := by
      rw [State.readReply_reg, State.readReg_idle hidle]
    refine ⟨read .cmd, read .src, read .dst, read .result, read .errinfo, read .inlen, read .txlen, read .ptlen,
      read .localAddr, read .nonceLo, read .nonceHi, ?_, ?_⟩
    · exact (read .cfg0).trans (congrArg Reply.word (cfg0_eq s.cfg))
    · exact (read .cfg1).trans (congrArg Reply.word (cfg1_eq s.cfg))
  · unfold State.readReply
    rw [busTarget_reserved hlo hhi hal]
  · rw [← BitVec.setWidth_eq_extractLsb' (by decide)]
    exact ⟨(s.writeEffect_reg .src v).trans (if_neg (by simp [hidle])),
      (s.writeEffect_reg .dst v).trans (if_neg (by simp [hidle]))⟩
  · exact State.writeEffect_above_dst hlo hhi v

end Sys2Proof.Claims
end

section
/-! `KEY`, `CS` and NVM are no part of what the host's accesses see or change (10_state R32, R35, R60, 60_exceptions R291). -/

namespace Sys2Proof.Machine

/-- The state with other secrets: `KEY`, `CS`, NVM and its write log. -/
def State.withSecrets (key : Vector Byte 32) (cs : Vector Word 16) (nvm log : List Host.Cell) (s : State) : State :=
  { s with key := key, cs := cs, nvm := nvm, nvmLog := log }

variable (key : Vector Byte 32) (cs : Vector Word 16) (nvm log : List Host.Cell) (s : State)

theorem State.readReg_withSecrets (r : Reg) : (s.withSecrets key cs nvm log).readReg r = s.readReg r := by
  cases r <;> rfl

theorem State.readReply_withSecrets (width : Width) (a : BitVec 17) :
    (s.withSecrets key cs nvm log).readReply width a = s.readReply width a := by
  unfold State.readReply
  cases busTarget width a with
  | reg r => exact congrArg Reply.word (s.readReg_withSecrets key cs nvm log r)
  | reserved | window | badAccess => rfl

theorem State.writeReg_withSecrets (r : Reg) (v : Word) :
    (s.withSecrets key cs nvm log).writeReg r v = (s.writeReg r v).withSecrets key cs nvm log := by
  cases r with
  | cmd | src | dst =>
    unfold State.writeReg
    dsimp only
    rw [apply_ite (State.withSecrets key cs nvm log)]
    rfl
  | _ => rfl

theorem State.writeWindow_withSecrets (offset bytes : Nat) (v : Word) :
    (s.withSecrets key cs nvm log).writeWindow offset bytes v =
      (s.writeWindow offset bytes v).withSecrets key cs nvm log := by
  unfold State.writeWindow
  rw [apply_ite (State.withSecrets key cs nvm log), apply_ite (State.withSecrets key cs nvm log)]
  rfl

theorem State.writeEffect_withSecrets (width : Width) (a : BitVec 17) (v : Word) :
    (s.withSecrets key cs nvm log).writeEffect width a v =
      (s.writeEffect width a v).withSecrets key cs nvm log := by
  unfold State.writeEffect
  cases busTarget width a with
  | reg r => exact s.writeReg_withSecrets key cs nvm log r v
  | window offset bytes => exact s.writeWindow_withSecrets key cs nvm log offset bytes v
  | reserved | badAccess => rfl

/-- Noninterference: an access commutes with a change of the secrets. -/
theorem State.access_withSecrets (a : Access) :
    (s.withSecrets key cs nvm log).access a = (s.access a).withSecrets key cs nvm log := by
  cases a with
  | read width addr =>
    unfold State.access
    simp only [State.readReply_withSecrets]
    rfl
  | write width addr v =>
    unfold State.access
    simp only [State.writeEffect_withSecrets]
    rfl

end Sys2Proof.Machine

namespace Sys2Proof.Claims

open Sys2Proof.Machine

/-- Settles O55: an access commutes with a change of the secrets; that it keeps them is the case of the secrets in place. -/
theorem secretsHaveNoHostAddress : Obligations.SecretsHaveNoHostAddress := by
  intro s a key cs nvm log
  have keeps : s.access a = (s.access a).withSecrets s.key s.cs s.nvm s.nvmLog :=
    s.access_withSecrets s.key s.cs s.nvm s.nvmLog a
  refine ⟨s.access_withSecrets key cs nvm log a, ?_, ?_, ?_, ?_⟩ <;> (rw [keeps]; rfl)

end Sys2Proof.Claims
end

section
/-! The BUF window and the accesses the bus refuses: what each access reaches, what it reads, and what it changes while idle and
while `BUSY` = 1 (10_state R55, 20_memory R90 to R95). -/

namespace Sys2Proof.Machine

variable {s : State} {a : BitVec 17} {width : Width}

theorem busTarget_byte_below (h : a.toNat < windowBase) : busTarget .byte a = .badAccess := by
  unfold busTarget
  simp only
  rw [if_pos h, if_neg nofun]

theorem busTarget_unaligned (h : a.toNat % 4 ≠ 0) : busTarget .word a = .badAccess := by
  unfold busTarget
  simp only
  rw [if_neg h]
  split
  · exact if_neg fun hw => h hw.2
  · rfl

/-- In the window an access reaches bytes from its own offset, or nothing. -/
theorem busTarget_in_window (h : windowBase ≤ a.toNat) :
    (∃ n, busTarget width a = .window (a.toNat - windowBase) n) ∨ busTarget width a = .badAccess := by
  unfold busTarget
  simp only
  rw [if_neg (Nat.not_lt.mpr h)]
  cases width with
  | byte => exact .inl ⟨1, rfl⟩
  | half => exact .inr rfl
  | word =>
    by_cases hal : a.toNat % 4 = 0
    · exact .inl ⟨4, if_pos hal⟩
    · exact .inr (if_neg hal)

/-! What a refused access answers and does (20_memory R91). -/

theorem State.access_refused (s : State) (v : Word) (h : busTarget width a = .badAccess) :
    s.readReply width a = .busError ∧ writeReply width a = .busError ∧ s.writeEffect width a v = s := by
  unfold State.readReply writeReply State.writeEffect
  rw [h]
  exact ⟨rfl, rfl, rfl⟩

/-! Reads of the window. -/

theorem State.readReply_windowByte {k : Nat} (s : State) (h : a.toNat = windowBase + k) :
    s.readReply .byte a = .byte (s.readWindow k) := by
  unfold State.readReply
  rw [busTarget_byte h]
  rfl

theorem State.readReply_windowWord {k : Nat} (s : State) (h : a.toNat = windowBase + k) (hk : k % 4 = 0) :
    s.readReply .word a =
      .word (le32 [s.readWindow k, s.readWindow (k + 1), s.readWindow (k + 2), s.readWindow (k + 3)] 0) := by
  unfold State.readReply
  rw [busTarget_word h hk]
  rfl

theorem State.readWindow_past {k : Nat} (h : s.cfg.bufSize ≤ k) : s.readWindow k = 0 := if_neg (by omega)

theorem State.readWindow_written {k : Nat} {v : Byte} (hidle : s.busy = false) (hk : k < s.cfg.bufSize)
    (hv : s.bufByte k = some v) : s.readWindow k = v := by
  unfold State.readWindow
  rw [if_pos hk, hidle, hv]
  rfl

/-! Writes of the window. -/

theorem State.writeEffect_windowByte {k : Nat} (s : State) (h : a.toNat = windowBase + k) (v : Word) :
    s.writeEffect .byte a v = s.writeWindow k 1 v := by
  unfold State.writeEffect
  rw [busTarget_byte h]

theorem State.writeEffect_windowWord {k : Nat} (s : State) (h : a.toNat = windowBase + k) (hk : k % 4 = 0) (v : Word) :
    s.writeEffect .word a v = s.writeWindow k 4 v := by
  unfold State.writeEffect
  rw [busTarget_word h hk]

theorem State.writeWindow_past {k n : Nat} (h : s.cfg.bufSize ≤ k) (v : Word) : s.writeWindow k n v = s :=
  if_neg (by omega)

theorem State.writeWindow_busy {k n : Nat} (hbusy : s.busy = true) (hk : k < s.cfg.bufSize) (v : Word) :
    s.writeWindow k n v = s.dropWrite := by
  unfold State.writeWindow
  rw [if_pos hk, if_pos hbusy]

/-- A write that fits is a store of its bytes (20_memory R90). -/
theorem State.writeWindow_idle {k n : Nat} (hidle : s.busy = false) (hk : k < s.cfg.bufSize)
    (hfits : k + n ≤ s.cfg.bufSize) (v : Word) : s.writeWindow k n v = s.putBuf k (windowBytes n v) := by
  have hlen : (windowBytes n v).length ≤ s.cfg.bufSize - k := by
    rw [windowBytes, List.length_take]
    omega
  unfold State.writeWindow
  rw [if_pos hk, if_neg (by simp [hidle]), List.take_of_length_le hlen]

/-- At or past `BUF_SIZE` no write of any width has an effect (10_state R55; log 12). -/
theorem State.writeEffect_past (h : windowBase + s.cfg.bufSize ≤ a.toNat) (v : Word) : s.writeEffect width a v = s := by
  rcases busTarget_in_window (width := width) (show windowBase ≤ a.toNat by omega) with ⟨n, ht⟩ | ht
  · unfold State.writeEffect
    rw [ht]
    exact State.writeWindow_past (by omega) v
  · exact (s.access_refused v ht).2.2

theorem windowBytes_one (v : Word) : windowBytes 1 v = [v.setWidth 8] := by
  rw [BitVec.setWidth_eq_extractLsb' (by decide)]
  rfl

theorem windowBytes_four (v0 v1 v2 v3 : Byte) : windowBytes 4 (v3 ++ v2 ++ v1 ++ v0) = [v0, v1, v2, v3] := by
  rw [windowBytes, wbytes_four]
  rfl

/-- `BUF_SIZE` is a multiple of 4, so an aligned word that begins in BUF lies in it (00_scope R10). -/
theorem Config.word_fits {c : Config} {k : Nat} (hal : k % 4 = 0) (hk : k < c.bufSize) : k + 4 ≤ c.bufSize := by
  unfold Config.bufSize at *
  omega

theorem State.readReply_withReply (s : State) (r : Option Reply) :
    ({ s with reply := r } : State).readReply width a = s.readReply width a := by
  unfold State.readReply
  cases busTarget width a with
  | reg r => cases r <;> rfl
  | reserved | window | badAccess => rfl

/-- A read while idle moves nothing but `reply` (20_memory R95; log 4). -/
theorem State.access_read_idle (hidle : s.busy = false) :
    s.access (.read width a) = { s with reply := some (s.readReply width a) } := by
  unfold State.access
  dsimp only
  rw [if_neg (by simp [hidle])]

end Sys2Proof.Machine

namespace Sys2Proof.Claims

open Sys2Proof.Machine

/-- Reading the stored bytes back, and what a store of BUF keeps. -/
theorem putBuf_stored {s : State} {a : Nat} {bytes : List Byte} :
    Stored (s.putBuf a bytes) a bytes ∧ SameOutside s (s.putBuf a bytes) a bytes.length :=
  ⟨State.bufBytes_putBuf a bytes, fun _ => State.bufByte_putBuf_outside⟩

/-- Settles O50: a window access reaches the bytes from its offset, and past `BUF_SIZE` it reaches none. -/
theorem bufWindow : Obligations.BufWindow := by
  refine ⟨fun s a k hidle ha hk => ⟨fun v hv => ?_, fun w => ?_⟩,
    fun s a k hidle ha hal hk => ⟨fun v0 v1 v2 v3 hv => ?_, fun v0 v1 v2 v3 => ?_⟩, fun s a hpast => ⟨?_, fun hal => ?_, ?_⟩⟩
  · rw [s.readReply_windowByte ha, State.readWindow_written hidle hk hv]
  · obtain ⟨hstored, hsame⟩ := putBuf_stored (s := s) (a := k) (bytes := [w.setWidth 8])
    refine ⟨s.putBuf k [w.setWidth 8], ?_, s.putBuf_eq _ _, ?_, hsame⟩
    · rw [s.writeEffect_windowByte ha, State.writeWindow_idle hidle hk hk, windowBytes_one]
    · exact (State.bufBytes_eq_some.mp hstored).2 0 (by simp)
  · have hfits := Config.word_fits hal hk
    obtain ⟨-, hbytes⟩ := State.bufBytes_eq_some.mp hv
    have read (j : Nat) (hj : j < 4) : s.readWindow (k + j) = [v0, v1, v2, v3][j] :=
      State.readWindow_written hidle (by omega) ((hbytes j hj).trans (List.getElem?_eq_getElem hj))
    rw [s.readReply_windowWord ha hal, show s.readWindow k = v0 from read 0 (by decide), read 1 (by decide),
      read 2 (by decide), read 3 (by decide)]
    exact congrArg Reply.word (le32_four v0 v1 v2 v3)
  · obtain ⟨hstored, hsame⟩ := putBuf_stored (s := s) (a := k) (bytes := [v0, v1, v2, v3])
    refine ⟨s.putBuf k [v0, v1, v2, v3], ?_, s.putBuf_eq _ _, hstored, hsame⟩
    rw [s.writeEffect_windowWord ha hal, State.writeWindow_idle hidle hk (Config.word_fits hal hk), windowBytes_four]
  · obtain ⟨k, hk⟩ := Nat.exists_eq_add_of_le hpast
    rw [s.readReply_windowByte (hk.trans (Nat.add_assoc _ _ _)), State.readWindow_past (by omega)]
  · obtain ⟨k, hk⟩ := Nat.exists_eq_add_of_le hpast
    have read (j : Nat) : s.readWindow (s.cfg.bufSize + k + j) = 0 := State.readWindow_past (by omega)
    rw [s.readReply_windowWord (hk.trans (Nat.add_assoc _ _ _)) (by omega), read 1, read 2, read 3,
      State.readWindow_past (by omega)]
    rfl
  · exact fun width v => State.writeEffect_past hpast v

/-- Settles O51: each of the three kinds of access is one the bus refuses. -/
theorem busErrorsChangeNothing : Obligations.BusErrorsChangeNothing := by
  rintro s width a v (rfl | ⟨rfl, hlow⟩ | ⟨rfl, hal⟩)
  · exact s.access_refused v busTarget_half
  · exact s.access_refused v (busTarget_byte_below hlow)
  · exact s.access_refused v (busTarget_unaligned hal)

/-- Settles O52: the three writable registers and BUF drop the write, and nothing else takes one. -/
theorem writesWhileBusyAreDropped : Obligations.WritesWhileBusyAreDropped := by
  intro s v hbusy
  refine ⟨(s.writeEffect_reg .cmd v).trans (if_pos hbusy), (s.writeEffect_reg .src v).trans (if_pos hbusy),
    (s.writeEffect_reg .dst v).trans (if_pos hbusy), fun a k ha hk => ⟨?_, fun hal => ?_⟩,
    fun width a hlo hhi => State.writeEffect_above_dst hlo hhi v, fun width a hpast => State.writeEffect_past hpast v⟩
  · rw [s.writeEffect_windowByte ha]
    exact State.writeWindow_busy hbusy hk v
  · rw [s.writeEffect_windowWord ha hal]
    exact State.writeWindow_busy hbusy hk v

/-- Settles O53: a read while idle moves only `reply`, which no read looks at. -/
theorem readsHaveNoSideEffect : Obligations.ReadsHaveNoSideEffect := by
  intro s width a
  refine ⟨⟨_, _, rfl⟩, fun hidle w b => ?_⟩
  rw [State.access_read_idle hidle, State.readReply_withReply]

end Sys2Proof.Claims
end

section
/-! The BUF ranges a command stores to: every other byte of BUF stays (20_memory R83, R85). -/

namespace Sys2Proof.Machine

variable {s t : State} {a : Nat}

theorem State.bufByte_congr (h : t.buf = s.buf) (a : Nat) : t.bufByte a = s.bufByte a := by
  unfold State.bufByte
  rw [h]

/-- A state whose BUF is `s` with one store reads as `s` outside the stored range. -/
theorem State.bufByte_of_buf_putBuf {dst n : Nat} {bytes : List Byte} (h : t.buf = (s.putBuf dst bytes).buf)
    (hlen : bytes.length = n) (ha : a < dst ∨ dst + n ≤ a) : t.bufByte a = s.bufByte a :=
  (State.bufByte_congr h a).trans (State.bufByte_putBuf_outside (hlen ▸ ha))

theorem State.bufByte_encoded_outside {pt : List Byte} {dst n : Nat} (hlen : pt.length = n)
    (ha : a < dst ∨ dst + (8 + n) ≤ a) : (s.encoded pt dst).bufByte a = s.bufByte a :=
  State.bufByte_of_buf_putBuf rfl (by simp [hlen]) ha

theorem State.bufByte_decoded_outside {hdr ct : List Byte} {dst n : Nat} (hlen : ct.length = n)
    (ha : a < dst ∨ dst + (n + 1) ≤ a) : (s.decoded hdr ct dst).bufByte a = s.bufByte a :=
  State.bufByte_of_buf_putBuf rfl (by simp [hlen]) ha

/-- A flush stores the envelope of the input buffer at `TX_BASE`, and nothing else (44_session R240). -/
theorem Flushed.bufByte_outside (h : Flushed s t) (ha : a < s.cfg.txBase ∨ s.cfg.txBase + (8 + s.inlen.toNat) ≤ a) :
    t.bufByte a = s.bufByte a := by
  cases h with
  | aborted h => rw [h]; rfl
  | suppressed h => rw [h]; rfl
  | sent pt hpsk hpending hread hfits h =>
    calc t.bufByte a = (s.encoded pt s.cfg.txBase).bufByte a := State.bufByte_congr (by rw [h, State.sent_eq]) a
      _ = s.bufByte a := State.bufByte_encoded_outside (State.bufBytes_length hread) ha

/-- SES_BYTE stores the byte it appends and the envelope of a flush (44_session R238, R240). -/
theorem ByteEffect.bufByte_outside {b : Byte} (h : ByteEffect b s t)
    (hin : a < s.cfg.inBase + s.inlen.toNat ∨ s.cfg.inBase + s.inlen.toNat + 1 ≤ a)
    (htx : a < s.cfg.txBase ∨ s.cfg.txBase + (8 + s.inlen.toNat + 1) ≤ a) : t.bufByte a = s.bufByte a := by
  have happended : (s.appended b).bufByte a = s.bufByte a := State.bufByte_of_buf_putBuf rfl rfl hin
  cases h with
  | error e hs h => rw [h]; rfl
  | sender hs hb h => rw [h]; rfl
  | listener hs hb h => rw [h]; rfl
  | same h => rw [h]
  | invalid h => rw [h]; rfl
  | prompt hs hb h => rw [h]; rfl
  | redisplay h => rw [h]; rfl
  | appended hs hfits hroom h => rw [h]; exact happended
  | overflow hs hfits hfull h =>
    have hsucc : (s.inlen + 1).toNat ≤ s.inlen.toNat + 1 := by
      rw [BitVec.toNat_add]
      exact Nat.mod_le _ _
    refine (h.bufByte_outside (htx.imp_right fun ha => ?_)).trans happended
    exact le_trans (Nat.add_le_add_left (Nat.add_le_add_left hsucc 8) _) ha
  | submit hs h => exact h.bufByte_outside (by omega)

/-- The receive path stores the plaintext and its NUL at `PT_BASE` (44_session R245). -/
theorem receive_bufByte_outside {len : Nat} (h : receive len s = .next t)
    (ha : 8 < len → a < s.cfg.ptBase ∨ s.cfg.ptBase + (len - 8 + 1) ≤ a) : t.bufByte a = s.bufByte a := by
  rcases receive_next h with ⟨-, rfl⟩ | ⟨hlen, hdr, ct, -, hct, -, rfl⟩
  · rfl
  · rw [State.received_eq]
    exact State.bufByte_decoded_outside (State.bufBytes_length hct) (ha hlen)

end Sys2Proof.Machine

namespace Sys2Proof.Claims

open Sys2Proof.Machine

/-- Settles O46: a command's effect is a store to its ranges, or leaves BUF out of the fields it writes. -/
theorem onlyTheStoredRangesChange : Obligations.OnlyTheStoredRangesChange := by
  intro i s t h a hout
  rcases exec_framed h with ⟨e, rfl⟩ | hframe
  · rfl
  cases i with
  | genblock =>
    rcases execGenblock_next h with ⟨e, rfl⟩ | ⟨-, rfl⟩
    · rfl
    · exact State.bufByte_of_buf_putBuf rfl (salsa20Block_length _) (hout (s.dst.toNat, 64) (by simp [storedRanges]))
  | xcrypt len =>
    rcases execXcrypt_next h with ⟨e, rfl⟩ | ⟨input, hin, -, -, rfl⟩
    · rfl
    · exact State.bufByte_of_buf_putBuf rfl ((xcrypt_length _ _).trans (State.bufBytes_length hin))
        (hout (s.dst.toNat, len) (by simp [storedRanges]))
  | nonceInc sel =>
    rcases execNonceInc_next h with ⟨e, rfl⟩ | ⟨-, rfl⟩ | ⟨rfl, n, hn, -, rfl⟩
    · rfl
    · rfl
    · exact State.bufByte_of_buf_putBuf rfl ((incBytes_length n).trans (State.bufBytes_length hn))
        (hout (s.dst.toNat, 8) (by simp [storedRanges]))
  | encode len =>
    rcases execEncode_next h with ⟨e, rfl⟩ | ⟨pt, v, hpt, -, rfl⟩
    · rfl
    · exact State.bufByte_encoded_outside (State.bufBytes_length hpt)
        (hout (s.dst.toNat, 8 + len) (by simp [storedRanges]))
  | decode len =>
    rcases execDecode_next h with ⟨e, rfl⟩ | ⟨-, v, rfl⟩ | ⟨hlen, hdr, ct, v, hct, -, rfl⟩
    · rfl
    · rfl
    · exact State.bufByte_decoded_outside hct (hout (s.dst.toNat, len - 8 + 1) (by simp [storedRanges, hlen]))
  | sesByte b =>
    have hin := hout (s.cfg.inBase + s.inlen.toNat, 1) (by simp [storedRanges])
    have htx := hout (s.cfg.txBase, 8 + s.inlen.toNat + 1) (by simp [storedRanges])
    exact (execSesByte_effect h).bufByte_outside hin htx
  | sesRx len =>
    rcases execSesRx_next h with ⟨e, rfl⟩ | ⟨-, -, ⟨-, rfl⟩ | ⟨-, h⟩⟩
    · rfl
    · rfl
    · have hrange (hlen : 8 < len) := hout (s.cfg.ptBase, len - 8 + 1) (by simp [storedRanges, hlen])
      exact (receive_bufByte_outside h hrange).trans rfl
  | _ =>
    dsimp only at hframe
    exact State.bufByte_congr (by rw [hframe]) a

end Sys2Proof.Claims
end

section
/-! Where a command stops with `UninitRead`: its BUF reads, one after the other, all before its first store (20_memory R84). -/

namespace Sys2Proof.Machine

variable {α : Type} {s : State} {a n : Nat}

/-- Some byte of the range has not been written since reset. -/
def State.Unwritten (s : State) (a n : Nat) : Prop := ∃ k < n, s.bufByte (a + k) = none

theorem State.bufBytes_eq_none : s.bufBytes a n = none ↔ s.Unwritten a n := by
  constructor
  · intro h
    by_contra hall
    obtain ⟨bytes, hb⟩ := State.bufBytes_isSome (s := s) (a := a) (n := n) fun i hi =>
      Option.isSome_iff_ne_none.mpr fun hnone => hall ⟨i, hi, hnone⟩
    exact nomatch h.symm.trans hb
  · rintro ⟨k, hk, hnone⟩
    refine Option.eq_none_iff_forall_ne_some.mpr fun bytes hb => ?_
    obtain ⟨hlen, hread⟩ := State.bufBytes_eq_some.mp hb
    have hmiss := List.getElem?_eq_none_iff.mp ((hread k hk).symm.trans hnone)
    omega

/-- A range is unwritten where its first part is, or its second. -/
theorem State.unwritten_split {m : Nat} (h : m ≤ n) :
    s.Unwritten a n ↔ s.Unwritten a m ∨ s.Unwritten (a + m) (n - m) := by
  constructor
  · rintro ⟨k, hk, hnone⟩
    by_cases hkm : k < m
    · exact .inl ⟨k, hkm, hnone⟩
    · exact .inr ⟨k - m, by omega, by rw [show a + m + (k - m) = a + k by omega]; exact hnone⟩
  · rintro (⟨k, hk, hnone⟩ | ⟨k, hk, hnone⟩)
    · exact ⟨k, by omega, hnone⟩
    · exact ⟨m + k, by omega, by rw [← Nat.add_assoc]; exact hnone⟩

theorem next_ne_fault {x : α} {r : Fault} : (.next x : Answer α) ≠ .fault r := nofun

theorem andThen_next_fault {β : Type} {x : Answer α} {f : α → β} {r : Fault} :
    andThen x (fun a => .next (f a)) = .fault r ↔ x = .fault r := by
  cases x <;> simp

theorem guarded_fault {op : Byte} {checks : List (Bool × CmdErr)} {run : Result} {r : Fault} :
    guarded op checks s run = .fault r ↔ firstError checks = none ∧ run = .fault r := by
  unfold guarded
  cases firstError checks <;> simp

theorem writeBuf_ne_uninitRead {bytes : List Byte} : writeBuf a bytes s ≠ .fault .uninitRead := by
  unfold writeBuf
  split <;> nofun

/-- A BUF read stops on an unwritten byte; else what comes after it may. -/
theorem withBuf_uninitRead {use : List Byte → Answer α} :
    withBuf s a n use = .fault .uninitRead ↔
      s.Unwritten a n ∨ ∃ bytes, s.bufBytes a n = some bytes ∧ use bytes = .fault .uninitRead := by
  unfold withBuf
  rw [← State.bufBytes_eq_none]
  cases s.bufBytes a n <;> simp

/-- The last BUF read of a command: nothing after it stops with `UninitRead`. -/
theorem withBuf_last_uninitRead {use : List Byte → Answer α} (huse : ∀ bytes, use bytes ≠ .fault .uninitRead) :
    withBuf s a n use = .fault .uninitRead ↔ s.Unwritten a n := by
  simp [withBuf_uninitRead, huse]

/-- Two BUF reads, of ranges that do not depend on what is read: either may stop. -/
theorem withBuf_then_uninitRead {p : Prop} {use : List Byte → Answer α}
    (huse : ∀ bytes, use bytes = .fault .uninitRead ↔ p) :
    withBuf s a n use = .fault .uninitRead ↔ s.Unwritten a n ∨ p := by
  rw [withBuf_uninitRead]
  by_cases h : s.Unwritten a n
  · simp [h]
  · obtain ⟨bytes, hb⟩ := Option.ne_none_iff_exists'.mp (mt State.bufBytes_eq_none.mp h)
    simp [h, hb, huse]

theorem encodeAt_uninitRead {dst : Nat} : encodeAt a n dst s = .fault .uninitRead ↔ s.Unwritten a n :=
  withBuf_last_uninitRead fun _ => writeBuf_ne_uninitRead

theorem decodeAt_uninitRead {dst : Nat} (h : 8 < n) :
    decodeAt a n dst s = .fault .uninitRead ↔ s.Unwritten a n := by
  unfold decodeAt
  rw [if_neg (by omega), State.unwritten_split (m := 8) (by omega)]
  exact withBuf_then_uninitRead fun hdr => withBuf_last_uninitRead fun ct =>
    mt andThen_next_fault.mp writeBuf_ne_uninitRead

/-- The receive path reads its whole frame, and nothing of a frame that is too short (44_session R245). -/
theorem receive_uninitRead :
    receive n s = .fault .uninitRead ↔ 8 < n ∧ s.Unwritten s.cfg.rxBase n := by
  unfold receive
  by_cases h : n ≤ 8
  · rw [if_pos h]
    exact iff_of_false next_ne_fault fun hr => absurd h (Nat.not_le.mpr hr.1)
  · have hlen : 8 < n := Nat.not_le.mp h
    have hhdr : s.Unwritten s.cfg.rxBase 8 → s.Unwritten s.cfg.rxBase n := fun hr =>
      (State.unwritten_split hlen.le).mpr (.inl hr)
    rw [if_neg h, withBuf_then_uninitRead fun hdr => andThen_next_fault.trans (decodeAt_uninitRead hlen),
      or_iff_right_of_imp hhdr, and_iff_right hlen]

end Sys2Proof.Machine

namespace Sys2Proof.Claims

open Sys2Proof.Machine

variable {i : Instr} {s : State}

/-- The checks each command makes, as its meaning lists them (60_exceptions R282). -/
def commandChecks (i : Instr) (s : State) : List (Bool × CmdErr) :=
  match i with
  | .nop | .ksLoad => []
  | .keysetup sel => [(keyOutside sel s, .bounds)]
  | .ivsetup sel => [(s.csStage = .empty, .sequence), (nonceOutside sel s.src s, .bounds)]
  | .genblock => [(s.csStage ≠ .ready, .sequence), (s.pastBuf s.dst 64, .bounds)]
  | .xcrypt len =>
    [(s.csStage ≠ .ready, .sequence), (s.pastBuf s.src len, .bounds), (s.pastBuf s.dst len, .bounds)]
  | .ksVerify => [(s.pastBuf s.src 32, .bounds)]
  | .ksStore => [(s.pskStatus ≠ .valid, .state)]
  | .ksInitdef => [(s.pskStatus ≠ .invalid, .state)]
  | .nonceInc sel => [(nonceOutside sel s.dst s, .bounds)]
  | .nonceCmp sel => [(s.pastBuf s.src 8, .bounds), (nonceOutside sel s.dst s, .bounds)]
  | .resync => [(s.pastBuf s.src 8, .bounds)]
  | .encode len =>
    [(s.cfg.maxPayload < 8 + len, .length), (s.pastBuf s.src len, .bounds), (s.pastBuf s.dst (8 + len), .bounds)]
  | .decode len =>
    [(s.cfg.maxPayload < len, .length), (s.pastBuf s.src len, .bounds),
      (decide (8 < len) && s.pastBuf s.dst (len - 8 + 1), .bounds)]
  | .sesRx len => [(s.session = .initial, .state), (s.cfg.maxPayload < len, .length)]
  | .sesByte _ | .sesConfirm _ | .sesTick => [(s.session = .initial, .state)]

theorem firstError_commandChecks (i : Instr) (s : State) : firstError (commandChecks i s) = commandError i s := by
  unfold commandError
  cases i with
  | keysetup sel | ivsetup sel | nonceInc sel | nonceCmp sel =>
    cases sel <;> simp [commandChecks, stateRefused, sequenceRefused, lengthRefused, boundsRefused, checkedRanges,
      keyOutside, nonceOutside, State.pastBuf, ite_or]
  | decode len =>
    by_cases h : 8 < len <;>
      simp [commandChecks, stateRefused, sequenceRefused, lengthRefused, boundsRefused, checkedRanges, State.pastBuf,
        ite_or, h]
  | _ =>
    simp [commandChecks, stateRefused, sequenceRefused, lengthRefused, boundsRefused, checkedRanges, State.pastBuf,
      ite_or]

/-- A command reads a byte not written since reset, in one of the ranges it reads. -/
def ReadsUnwritten (i : Instr) (s : State) : Prop := ∃ r ∈ readRanges i s, s.Unwritten r.1 r.2

theorem readsUnwritten_nil (h : readRanges i s = []) : ¬ ReadsUnwritten i s := by
  simp [ReadsUnwritten, h]

theorem readsUnwritten_one {a n : Nat} (h : readRanges i s = [(a, n)]) : s.Unwritten a n ↔ ReadsUnwritten i s := by
  simp [ReadsUnwritten, h]

theorem readsUnwritten_two {a n b m : Nat} (h : readRanges i s = [(a, n), (b, m)]) :
    s.Unwritten a n ∨ s.Unwritten b m ↔ ReadsUnwritten i s := by
  simp [ReadsUnwritten, h]

/-- A command stops where its checks pass and its effect stops. -/
theorem guarded_commandChecks_uninitRead {op : Byte} {run : Result}
    (h : run = .fault .uninitRead ↔ ReadsUnwritten i s) :
    guarded op (commandChecks i s) s run = .fault .uninitRead ↔ commandError i s = none ∧ ReadsUnwritten i s := by
  rw [guarded_fault, firstError_commandChecks, h]

/-- The commands that read BUF stop at the first unwritten byte of their ranges, and the others nowhere. -/
theorem exec_uninitRead (hbyte : ∀ b, i ≠ .sesByte b) :
    exec i s = .fault .uninitRead ↔ commandError i s = none ∧ ReadsUnwritten i s := by
  have stops := @guarded_commandChecks_uninitRead i s
  cases i with
  | nop | ksLoad => exact iff_of_false next_ne_fault fun h => readsUnwritten_nil rfl h.2
  | ksStore | ksInitdef | sesConfirm | sesTick => exact stops (iff_of_false next_ne_fault (readsUnwritten_nil rfl))
  | genblock => exact stops (iff_of_false writeBuf_ne_uninitRead (readsUnwritten_nil rfl))
  | ksVerify | resync => exact stops ((withBuf_last_uninitRead fun _ => next_ne_fault).trans (readsUnwritten_one rfl))
  | keysetup sel =>
    refine stops ?_
    cases sel with
    | psk => exact iff_of_false next_ne_fault (readsUnwritten_nil rfl)
    | buf => exact (withBuf_last_uninitRead fun _ => next_ne_fault).trans (readsUnwritten_one rfl)
  | ivsetup sel =>
    refine stops ?_
    cases sel with
    | nonce => exact iff_of_false next_ne_fault (readsUnwritten_nil rfl)
    | buf => exact (withBuf_last_uninitRead fun _ => next_ne_fault).trans (readsUnwritten_one rfl)
  | nonceInc sel =>
    refine stops ?_
    cases sel with
    | nonce => exact iff_of_false next_ne_fault (readsUnwritten_nil rfl)
    | buf => exact (withBuf_last_uninitRead fun _ => writeBuf_ne_uninitRead).trans (readsUnwritten_one rfl)
  | nonceCmp sel =>
    refine stops ?_
    cases sel with
    | nonce => exact (withBuf_last_uninitRead fun _ => next_ne_fault).trans (readsUnwritten_one rfl)
    | buf =>
      exact (withBuf_then_uninitRead fun _ => withBuf_last_uninitRead fun _ => next_ne_fault).trans
        (readsUnwritten_two rfl)
  | xcrypt len =>
    exact stops ((withBuf_last_uninitRead fun _ => mt andThen_next_fault.mp writeBuf_ne_uninitRead).trans
      (readsUnwritten_one rfl))
  | encode len => exact stops ((andThen_next_fault.trans encodeAt_uninitRead).trans (readsUnwritten_one rfl))
  | decode len =>
    refine stops (andThen_next_fault.trans ?_)
    by_cases hlen : 8 < len
    · exact (decodeAt_uninitRead hlen).trans (readsUnwritten_one (if_pos hlen))
    · rw [decodeAt_short (Nat.not_lt.mp hlen)]
      exact iff_of_false next_ne_fault (readsUnwritten_nil (if_neg hlen))
  | sesByte b => exact absurd rfl (hbyte b)
  | sesRx len =>
    refine stops ?_
    by_cases hframes : s.handlesFrames
    · rw [if_pos hframes, receive_uninitRead]
      by_cases hlen : 8 < len
      · rw [and_iff_right hlen]
        exact readsUnwritten_one (s := s) (if_pos ⟨hframes, hlen⟩)
      · exact iff_of_false (fun h => hlen h.1) (readsUnwritten_nil (if_neg fun h => hlen h.2))
    · rw [if_neg hframes]
      exact iff_of_false next_ne_fault (readsUnwritten_nil (if_neg fun h => hframes h.1))

/-- Settles O9: a command's checks are those of `commandError`, and its effect stops at an unwritten byte of its ranges. -/
theorem unwrittenReadsStop : Obligations.UnwrittenReadsStop := fun _ _ => exec_uninitRead

end Sys2Proof.Claims
end

section
/-! The encoder and the decoder: each undoes the other, the rows of 30_encoding R114 are the words of their commands, and
every other word is one of two errors (30_encoding R110 to R115). -/

namespace Sys2Proof

open Sys2Proof.Claims

variable {i : Instr} {w : Word}

/-- A command's word is the one with the command's three fields (30_encoding R111). -/
theorem encode_eq_iff :
    encode i = w ↔ i.opcode = opField w ∧ i.arg = argField w ∧ BitVec.ofNat 16 i.len = lenField w := by
  conv_lhs => rw [← commandWord_fields w]
  exact commandWord_inj

/-- Decoding undoes encoding, command by command. -/
theorem decode_encode (h : i.wellFormed = true) : decode (encode i) = .ok i := by
  revert h
  cases i with
  | nop => exact Laws.RoundTrip.nop
  | keysetup sel => exact Laws.RoundTrip.keysetup sel
  | ivsetup sel => exact Laws.RoundTrip.ivsetup sel
  | genblock => exact Laws.RoundTrip.genblock
  | xcrypt len => exact Laws.RoundTrip.xcrypt len
  | ksLoad => exact Laws.RoundTrip.ksLoad
  | ksVerify => exact Laws.RoundTrip.ksVerify
  | ksStore => exact Laws.RoundTrip.ksStore
  | ksInitdef => exact Laws.RoundTrip.ksInitdef
  | nonceInc sel => exact Laws.RoundTrip.nonceInc sel
  | nonceCmp sel => exact Laws.RoundTrip.nonceCmp sel
  | resync => exact Laws.RoundTrip.resync
  | encode len => exact Laws.RoundTrip.encode len
  | decode len => exact Laws.RoundTrip.decode len
  | sesByte b => exact Laws.RoundTrip.sesByte b
  | sesRx len => exact Laws.RoundTrip.sesRx len
  | sesConfirm c => exact Laws.RoundTrip.sesConfirm c
  | sesTick => exact Laws.RoundTrip.sesTick

/-- Encoding undoes decoding: the command has the word's fields, and the fields make the word. -/
theorem encode_of_decode (h : decode w = .ok i) : i.wellFormed = true ∧ encode i = w := by
  obtain ⟨hwf, hop, harg, hlen⟩ := decode_fields h
  refine ⟨hwf, encode_eq_iff.mpr ⟨hop, harg, ?_⟩⟩
  rw [hlen, BitVec.ofNat_toNat, BitVec.setWidth_eq]

/-- A word decodes to a command exactly when it is the command's own word. -/
theorem decode_eq_ok_iff : decode w = .ok i ↔ i.wellFormed = true ∧ encode i = w := by
  refine ⟨encode_of_decode, ?_⟩
  rintro ⟨hwf, rfl⟩
  exact decode_encode hwf

@[simp] theorem opField_encode : opField (encode i) = i.opcode := opField_commandWord _ _ _
@[simp] theorem argField_encode : argField (encode i) = i.arg := argField_commandWord _ _ _
@[simp] theorem lenField_encode : lenField (encode i) = BitVec.ofNat 16 i.len := lenField_commandWord _ _ _

/-! The rows of 30_encoding R114. -/

/-- One command of each row, in the order of 30_encoding R114. -/
def rowCommands : List Instr :=
  [.nop, .keysetup .psk, .ivsetup .nonce, .genblock, .xcrypt 0, .ksLoad, .ksVerify, .ksStore, .ksInitdef,
   .nonceInc .nonce, .nonceCmp .nonce, .resync, .encode 0, .decode 0, .sesByte 0, .sesRx 0, .sesConfirm .ok, .sesTick]

theorem matchMask_eq : matchMask = rowCommands.map rowOf := rfl

/-- A row's match is its opcode with every other bit zero. -/
theorem rowOf_match (i : Instr) : (rowOf i).1 = commandWord i.opcode 0 0 := by
  cases i <;> (simp only [rowOf, Instr.opcode]; decide)

theorem rowOf_mem (i : Instr) : rowOf i ∈ matchMask := by
  cases i <;> simp [rowOf, matchMask]

theorem opcode_mem (i : Instr) : i.opcode ∈ assignedOpcodes := by
  cases i <;> simp [Instr.opcode, assignedOpcodes]

/-- A command's word has no reserved bit of its row set. -/
theorem encode_matches_row (i : Instr) : encode i &&& (rowOf i).2 = (rowOf i).1 := by
  rw [rowOf_match]
  cases i with
  | nop | genblock | ksLoad | ksVerify | ksStore | ksInitdef | resync | sesTick =>
    exact row_plain.mpr ⟨opField_encode, argField_encode, lenField_encode⟩
  | keysetup sel | ivsetup sel | nonceInc sel | nonceCmp sel | sesConfirm sel =>
    refine row_select.mpr ⟨opField_encode, ?_, lenField_encode⟩
    cases sel
    · exact .inl argField_encode
    · exact .inr argField_encode
  | xcrypt len | encode len | decode len | sesRx len => exact row_len.mpr ⟨opField_encode, argField_encode⟩
  | sesByte b => exact row_byte.mpr ⟨opField_encode, lenField_encode⟩

theorem encode_of_fields (hop : opField w = i.opcode) (harg : argField w = i.arg)
    (hlen : lenField w = BitVec.ofNat 16 i.len) : encode i = w :=
  encode_eq_iff.mpr ⟨hop.symm, harg.symm, hlen.symm⟩

theorem lenField_eq (w : Word) : lenField w = BitVec.ofNat 16 (lenField w).toNat := by simp

theorem lenFits_lenField (w : Word) : Instr.lenFits (lenField w).toNat = true := decide_eq_true (lenField w).isLt

/-- A word of a row is the word of a command of that row: each kind of row has a command for all its words. -/
theorem exists_encode_of_row (h : w &&& (rowOf i).2 = (rowOf i).1) :
    ∃ j, rowOf j = rowOf i ∧ j.wellFormed = true ∧ encode j = w := by
  rw [rowOf_match] at h
  cases i with
  | nop | genblock | ksLoad | ksVerify | ksStore | ksInitdef | resync | sesTick =>
    obtain ⟨hop, harg, hlen⟩ := row_plain.mp h
    exact ⟨_, rfl, rfl, encode_of_fields hop harg hlen⟩
  | keysetup =>
    obtain ⟨hop, harg | harg, hlen⟩ := row_select.mp h
    · exact ⟨.keysetup .psk, rfl, rfl, encode_of_fields hop harg hlen⟩
    · exact ⟨.keysetup .buf, rfl, rfl, encode_of_fields hop harg hlen⟩
  | ivsetup =>
    obtain ⟨hop, harg | harg, hlen⟩ := row_select.mp h
    · exact ⟨.ivsetup .nonce, rfl, rfl, encode_of_fields hop harg hlen⟩
    · exact ⟨.ivsetup .buf, rfl, rfl, encode_of_fields hop harg hlen⟩
  | nonceInc =>
    obtain ⟨hop, harg | harg, hlen⟩ := row_select.mp h
    · exact ⟨.nonceInc .nonce, rfl, rfl, encode_of_fields hop harg hlen⟩
    · exact ⟨.nonceInc .buf, rfl, rfl, encode_of_fields hop harg hlen⟩
  | nonceCmp =>
    obtain ⟨hop, harg | harg, hlen⟩ := row_select.mp h
    · exact ⟨.nonceCmp .nonce, rfl, rfl, encode_of_fields hop harg hlen⟩
    · exact ⟨.nonceCmp .buf, rfl, rfl, encode_of_fields hop harg hlen⟩
  | sesConfirm =>
    obtain ⟨hop, harg | harg, hlen⟩ := row_select.mp h
    · exact ⟨.sesConfirm .ok, rfl, rfl, encode_of_fields hop harg hlen⟩
    · exact ⟨.sesConfirm .fail, rfl, rfl, encode_of_fields hop harg hlen⟩
  | xcrypt =>
    obtain ⟨hop, harg⟩ := row_len.mp h
    exact ⟨.xcrypt (lenField w).toNat, rfl, lenFits_lenField w, encode_of_fields hop harg (lenField_eq w)⟩
  | encode =>
    obtain ⟨hop, harg⟩ := row_len.mp h
    exact ⟨.encode (lenField w).toNat, rfl, lenFits_lenField w, encode_of_fields hop harg (lenField_eq w)⟩
  | decode =>
    obtain ⟨hop, harg⟩ := row_len.mp h
    exact ⟨.decode (lenField w).toNat, rfl, lenFits_lenField w, encode_of_fields hop harg (lenField_eq w)⟩
  | sesRx =>
    obtain ⟨hop, harg⟩ := row_len.mp h
    exact ⟨.sesRx (lenField w).toNat, rfl, lenFits_lenField w, encode_of_fields hop harg (lenField_eq w)⟩
  | sesByte =>
    obtain ⟨hop, hlen⟩ := row_byte.mp h
    exact ⟨.sesByte (argField w), rfl, rfl, encode_of_fields hop rfl hlen⟩

theorem exists_decode_of_row {r : Word × Word} (hr : r ∈ matchMask) (h : w &&& r.2 = r.1) :
    ∃ i, decode w = .ok i ∧ rowOf i = r := by
  rw [matchMask_eq] at hr
  obtain ⟨i, -, rfl⟩ := List.mem_map.mp hr
  obtain ⟨j, hrow, hj⟩ := exists_encode_of_row h
  exact ⟨j, decode_eq_ok_iff.mpr hj, hrow⟩

/-- The words that match some row are those that decode. -/
theorem matchesARow_iff : matchesARow w = true ↔ ∃ i, decode w = .ok i := by
  simp only [matchesARow, List.any_eq_true, decide_eq_true_eq]
  constructor
  · rintro ⟨r, hr, hw⟩
    exact (exists_decode_of_row hr hw).imp fun _ h => h.1
  · rintro ⟨i, hi⟩
    obtain ⟨-, rfl⟩ := encode_of_decode hi
    exact ⟨rowOf i, rowOf_mem i, encode_matches_row i⟩

/-! The words that decode to no command: the answer depends on the opcode alone (30_encoding R115). -/

variable {arg : Byte} {len : Half} {e : CmdErr}

theorem decodePlain_error (h : decodePlain arg len i = .error e) : e = .field := by
  unfold decodePlain at h
  split at h <;> cases h
  rfl

theorem decodeSelect_error {f : Bool → Instr} (h : decodeSelect arg len f = .error e) : e = .field := by
  unfold decodeSelect at h
  split at h
  · split at h <;> cases h
    rfl
  · cases h
    rfl

theorem decodeLen_error {f : Nat → Instr} (h : decodeLen arg len f = .error e) : e = .field := by
  unfold decodeLen at h
  split at h <;> cases h
  rfl

theorem decodeByte_error {f : Byte → Instr} (h : decodeByte arg len f = .error e) : e = .field := by
  unfold decodeByte at h
  split at h <;> cases h
  rfl

theorem mem_assignedOpcodes_iff (op : Byte) : op ∈ assignedOpcodes ↔ op.toNat ∈ assignedOpcodes.map BitVec.toNat :=
  (List.mem_map_of_injective fun _ _ => BitVec.eq_of_toNat_eq).symm

/-- A word that does not decode is `E_FIELD` when its opcode is assigned, and `E_OPCODE` when it is not. -/
theorem decode_error (h : decode w = .error e) :
    (opField w ∈ assignedOpcodes ∧ e = .field) ∨ (opField w ∉ assignedOpcodes ∧ e = .opcode) := by
  rw [mem_assignedOpcodes_iff]
  unfold decode at h
  simp only at h
  split at h
  case h_19 =>
    cases h
    exact .inr ⟨by simp_all [assignedOpcodes], rfl⟩
  all_goals
    rename_i hop
    rw [hop]
    refine .inl ⟨by decide, ?_⟩
  -- The rows with a selector, those with a length, the one with a byte, and those with no operand (30_encoding R113).
  case h_2 | h_3 | h_10 | h_11 | h_17 => exact decodeSelect_error h
  case h_5 | h_13 | h_14 | h_16 => exact decodeLen_error h
  case h_15 => exact decodeByte_error h
  all_goals exact decodePlain_error h

end Sys2Proof

namespace Sys2Proof.Claims

/-- Settles O3: the round trip of each command, its operands at every value the encoding admits. -/
theorem decodeOfEncodeIsTheCommand : Obligations.DecodeOfEncodeIsTheCommand := fun _ => decode_encode

/-- Settles O4: a command that a word decodes to has the word's fields, so its encoding is the word. -/
theorem encodeOfDecodeIsTheWord : Obligations.EncodeOfDecodeIsTheWord := fun _ _ => encode_of_decode

/-- Settles O5: a row is the set of words of its commands, and a word decodes to the command whose word it is. Two rows that
a word matches are then both the row of the one command it decodes to. -/
theorem decodeFollowsMatchAndMask : Obligations.DecodeFollowsMatchAndMask := by
  refine ⟨fun w i h => ?_, fun w r => exists_decode_of_row, fun w r hr q hq hwr hwq => ?_⟩
  · obtain ⟨-, rfl⟩ := encode_of_decode h
    exact ⟨rowOf_mem i, encode_matches_row i⟩
  · obtain ⟨i, hi, rfl⟩ := exists_decode_of_row hr hwr
    obtain ⟨j, hj, rfl⟩ := exists_decode_of_row hq hwq
    cases hi.symm.trans hj
    rfl

/-- Settles O6: a word of a row decodes and has its command's fields; of the other words, the opcode tells the error. -/
theorem decodeIsTotal : Obligations.DecodeIsTotal := by
  intro w
  cases h : decode w with
  | ok i =>
    obtain ⟨-, hop, harg, hlen⟩ := decode_fields h
    have hassigned : opField w ∈ assignedOpcodes := hop ▸ opcode_mem i
    rw [if_neg (not_not_intro hassigned), if_neg (not_not_intro (matchesARow_iff.mpr ⟨i, h⟩))]
    exact ⟨i, rfl, hop, harg, hlen⟩
  | error e =>
    have hrow : ¬ matchesARow w := fun hw => by
      obtain ⟨i, hi⟩ := matchesARow_iff.mp hw
      exact nomatch h.symm.trans hi
    rcases decode_error h with ⟨hop, rfl⟩ | ⟨hop, rfl⟩
    · rw [if_neg (not_not_intro hop), if_pos hrow]
    · rw [if_pos hop]

end Sys2Proof.Claims
end

section
/-! The words of 30_encoding as their fields shifted into place: command words (R111, R113, R131) and event words (R125 to
R128). -/

namespace Sys2Proof

theorem commandWord_of_arg_zero (op : Byte) (len : Half) :
    commandWord op 0 len = (op.setWidth 32 <<< 24) ||| len.setWidth 32 := by
  simp [commandWord_eq_or]

theorem commandWord_of_len_zero (op arg : Byte) :
    commandWord op arg 0 = (op.setWidth 32 <<< 24) ||| (arg.setWidth 32 <<< 16) := by
  simp [commandWord_eq_or]

end Sys2Proof

namespace Sys2Proof.Machine

theorem headWord_eq_or (kind : Byte) (payload : Half) :
    headWord kind payload = (kind.setWidth 32 <<< 24) ||| payload.setWidth 32 :=
  commandWord_of_arg_zero kind payload

/-- Byte `k` of a little-endian word is byte `k` of the sequence (00_scope R15). -/
theorem le32_byte (text : List Byte) {k : Nat} (hk : k < 4) : (le32 text 0).extractLsb' (8 * k) 8 = text.getD k 0 := by
  have hword : le32 text 0 = text.getD 3 0 ++ text.getD 2 0 ++ text.getD 1 0 ++ text.getD 0 0 := le32_four _ _ _ _
  have hbytes := wbytes_four (text.getD 0 0) (text.getD 1 0) (text.getD 2 0) (text.getD 3 0)
  rw [← hword] at hbytes
  simp only [wbytes, List.cons.injEq] at hbytes
  obtain ⟨h0, h1, h2, h3, -⟩ := hbytes
  interval_cases k
  · exact h0
  · exact h1
  · exact h2
  · exact h3

/-- A text is packed four bytes at a time. -/
theorem packText_of_ne_nil {text : List Byte} (h : text ≠ []) : packText text = le32 text 0 :: packText (text.drop 4) := by
  match text with
  | [] => contradiction
  | [_] | [_, _] | [_, _, _] | _ :: _ :: _ :: _ :: _ => simp [packText, le32]

theorem packText_length (text : List Byte) : (packText text).length = (text.length + 3) / 4 := by
  induction text using packText.induct with
  | case1 | case2 | case3 | case4 => simp [packText]
  | case5 a b c d rest ih =>
    simp only [packText, List.length_cons, ih]
    omega

/-- 30_encoding R128: byte `j` of the text is byte `j % 4` of extra word `j / 4`, and the bytes past the text are zero. -/
theorem packText_byte (text : List Byte) (j : Nat) :
    ((packText text).getD (j / 4) 0).extractLsb' (8 * (j % 4)) 8 = text.getD j 0 := by
  by_cases hnil : text = []
  · subst hnil
    simp [packText]
  · rw [packText_of_ne_nil hnil]
    by_cases hj : j < 4
    · rw [Nat.div_eq_of_lt hj, Nat.mod_eq_of_lt hj, List.getD_cons_zero]
      exact le32_byte text hj
    · obtain ⟨k, rfl⟩ := Nat.exists_eq_add_of_le' (Nat.not_lt.mp hj)
      rw [Nat.add_div_right k (by decide), Nat.add_mod_right, List.getD_cons_succ, packText_byte (text.drop 4) k]
      simp [List.getD_eq_getElem?_getD, Nat.add_comm]
termination_by j
decreasing_by omega

end Sys2Proof.Machine

namespace Sys2Proof.Claims

open Sys2Proof.Machine

/-- Settles O43: a head word is its kind above its payload, and the text of a `DISPLAY` is packed four bytes a word. -/
theorem eventWords : Obligations.EventWords := by
  refine ⟨by decide, fun addr => ?_, fun dest sep dep opt len => ?_, fun text h => ⟨packText text, ?_, ?_, ?_⟩⟩
  · exact congrArg (fun w => [w]) (headWord_eq_or 0x02 addr)
  · exact congrArg₂ (fun v w => [v, w, opt.setWidth 32]) (headWord_eq_or 0x03 len) (commandWord_eq_or dep sep dest)
  · have hlen : (BitVec.ofNat 16 text.length).setWidth 32 = BitVec.ofNat 32 text.length := by
      apply BitVec.eq_of_toNat_eq
      simp
      omega
    rw [← hlen]
    exact congrArg (· :: packText text) (headWord_eq_or 0x04 (BitVec.ofNat 16 text.length))
  · exact packText_length text
  · exact fun j _ => packText_byte text j

/-- Settles O2: the word of each command with its operand shifted into its field. -/
theorem commandTextAndWord : Obligations.CommandTextAndWord := by
  have withLen (op : Byte) (n : Nat) := commandWord_of_arg_zero op (BitVec.ofNat 16 n)
  exact ⟨⟨rfl, rfl⟩, ⟨rfl, rfl⟩, ⟨rfl, rfl⟩, ⟨rfl, rfl⟩, ⟨rfl, rfl⟩, ⟨rfl, rfl⟩, fun n => ⟨rfl, withLen 0x04 n⟩,
    ⟨rfl, rfl⟩, ⟨rfl, rfl⟩, ⟨rfl, rfl⟩, ⟨rfl, rfl⟩, ⟨rfl, rfl⟩, ⟨rfl, rfl⟩, ⟨rfl, rfl⟩, ⟨rfl, rfl⟩, ⟨rfl, rfl⟩,
    fun n => ⟨rfl, withLen 0x30 n⟩, fun n => ⟨rfl, withLen 0x31 n⟩, fun b => ⟨rfl, commandWord_of_len_zero 0x40 b⟩,
    fun n => ⟨rfl, withLen 0x41 n⟩, ⟨rfl, rfl⟩, ⟨rfl, rfl⟩, ⟨rfl, rfl⟩⟩

/-- Settles O1: eight of the words are encodings, and the decoder answers each of the others with its error. -/
theorem specWordsDecode : Obligations.SpecWordsDecode :=
  ⟨decode_encode (i := .keysetup .buf) rfl, decode_encode (i := .ivsetup .nonce) rfl,
    decode_encode (i := .xcrypt 70) rfl, decode_encode (i := .ksStore) rfl, decode_encode (i := .nonceInc .buf) rfl,
    decode_encode (i := .decode 10) rfl, decode_encode (i := .sesByte 0x31) rfl,
    decode_encode (i := .sesConfirm .fail) rfl, rfl, rfl, rfl, rfl, rfl⟩

end Sys2Proof.Claims
end

section
/-! `DO <command>` on an idle engine, one turn after the other (30_encoding R130, R132, 60_exceptions R280). -/

namespace Sys2Proof.Machine

variable {s : State} {i : Instr} {rest : List Turn}

/-- The turns of `DO` (30_encoding R132): both `WAIT`s and the write of the command word between them. -/
theorem doCommand_turns (i : Instr) :
    (doCommand i).flatMap HostAction.turns =
      [.engine, .host (.read .word 0x00004), .host (.write .word 0x00000 (encode i)), .engine,
       .host (.read .word 0x00004)] := rfl

/-- An idle engine lets its turn pass (60_exceptions R298). -/
theorem step_engine_idle (hw : s.cfg.wf) (ht : s.turns = .engine :: rest) (hb : s.busy = false) :
    step s = .next { s with turns := rest } := by
  rw [step_engine hw (.inr ht)]
  exact if_neg (by simp [hb])

/-- A read of `STATUS` while idle answers its word and moves nothing else (10_state R53, 20_memory R95). -/
theorem step_readStatus_idle (hw : s.cfg.wf) (ht : s.turns = .host (.read .word 0x00004) :: rest)
    (hb : s.busy = false) :
    step s = .next { s with turns := rest, reply := some (.word s.statusWord) } := by
  have hread : ({ s with turns := rest } : State).readReply .word 0x00004 = .word s.statusWord :=
    (State.readReply_reg _ .status).trans (congrArg Reply.word (State.readReg_status _))
  rw [step_host hw ht, State.access_read_idle (by exact hb), hread]

/-- A write of `CMD` while idle issues the command (10_state R48). -/
theorem step_writeCmd_idle {w : Word} (hw : s.cfg.wf) (ht : s.turns = .host (.write .word 0x00000 w) :: rest)
    (hb : s.busy = false) :
    step s = .next { s with
      turns := rest, cmdLatch := w, busy := true, reply := some .done, freeCtr := s.freeCtr + 1 } := by
  have heffect : ({ s with turns := rest } : State).writeEffect .word 0x00000 w =
      ({ s with turns := rest } : State).issue w :=
    (State.writeEffect_reg _ .cmd w).trans (if_neg (by simp [hb]))
  rw [step_host hw ht]
  unfold State.access
  dsimp only
  rw [heffect]
  rfl

/-- The engine's turn runs the latched command (60_exceptions R280). -/
theorem step_engine_command {t : State} (hw : s.cfg.wf) (ht : s.turns = .engine :: rest) (hbusy : s.busy = true)
    (hboot : s.bootPending = false) (hdec : decode s.cmdLatch = .ok i)
    (hexec : exec i { s with turns := rest } = .next t) :
    step s = .next t.complete := by
  rw [step_engine hw (.inr ht)]
  unfold engineTurn engineStep
  dsimp only
  rw [if_pos hbusy, if_neg (by simp [hboot]), hdec]
  dsimp only
  rw [hexec]
  rfl

theorem State.statusWord_idle (hb : s.busy = false) : s.statusWord.getLsbD 0 = false := by
  obtain ⟨hbusy, -⟩ := s.statusWord_fields
  simpa [hb] using congrArg (·.getLsbD 0) hbusy

end Sys2Proof.Machine

namespace Sys2Proof.Claims

open Sys2Proof.Machine

/-- Settles O54: each turn of `DO` is one of the steps above; the command leaves the rest of the turns and the configuration
to the last of them. -/
theorem doRunsTheCommand : Obligations.DoRunsTheCommand := by
  intro s t i rest hw hidle hi hturns hboot hexec
  rw [doCommand_turns] at hturns
  obtain ⟨-, -, -, -, -, hcfg, -, hleft, -⟩ := hostRegistersAreTheHosts i _ t hexec
  refine ⟨t.complete.statusWord, State.statusWord_idle rfl, ?_⟩
  refine ⟨_, step_engine_idle hw hturns hidle, ?_⟩
  refine ⟨_, step_readStatus_idle hw rfl hidle, ?_⟩
  refine ⟨_, step_writeCmd_idle hw rfl hidle, ?_⟩
  refine ⟨_, step_engine_command hw rfl rfl hboot (decode_encode hi) hexec, ?_⟩
  exact ⟨_, step_readStatus_idle (hcfg ▸ hw) hleft rfl, rfl⟩

end Sys2Proof.Claims
end

section
/-! The cipher core: the rounds as quarter-rounds, the block byte by byte, the counter as one 64-bit number, and what setting
up a nonce overwrites (40_cipher R143, R145, R146, R149). -/

namespace Sys2Proof.Machine

open Sys2Proof.Claims

theorem rotl_eq_rotateLeft (v : Word) {r : Nat} (hr : r < 32) : rotl v r = v.rotateLeft r := by
  rw [BitVec.rotateLeft_def, Nat.mod_eq_of_lt hr]
  rfl

/-- Four steps of R143 on four different words are a quarter-round. -/
theorem foldl_quarterStep_eq_onFour {a b c d : Fin 16} (h : [a, b, c, d].Nodup) (x : Vector Word 16) :
    [(b, a, d, 7), (c, b, a, 9), (d, c, b, 13), (a, d, c, 18)].foldl quarterStep x = onFour a b c d x := by
  simp only [List.nodup_cons, List.mem_cons, List.not_mem_nil, or_false, not_or, Fin.ext_iff] at h
  simp [quarterStep, onFour, rotl_eq_rotateLeft, h, Ne.symm]

/-- 40_cipher R143: the sixteen steps of a column round are a quarter-round for each column. -/
theorem foldl_columnRound (x : Vector Word 16) :
    columnRound.foldl quarterStep x =
      onFour 15 3 7 11 (onFour 10 14 2 6 (onFour 5 9 13 1 (onFour 0 4 8 12 x))) := by
  iterate 4 rw [← foldl_quarterStep_eq_onFour (by decide)]
  rfl

/-- 40_cipher R143: the sixteen steps of a row round are a quarter-round for each row. -/
theorem foldl_rowRound (x : Vector Word 16) :
    rowRound.foldl quarterStep x =
      onFour 15 12 13 14 (onFour 10 11 8 9 (onFour 5 6 7 4 (onFour 0 1 2 3 x))) := by
  iterate 4 rw [← foldl_quarterStep_eq_onFour (by decide)]
  rfl

theorem doubleRounds_eq_iterate (n : Nat) (x : Vector Word 16) : doubleRounds n x = doubleRound^[n] x := by
  induction n generalizing x with
  | zero => rfl
  | succ n ih => exact ih _

theorem wbytes_getD (w : Word) {k : Nat} (hk : k < 4) : (wbytes w).getD k 0 = w.extractLsb' (8 * k) 8 := by
  interval_cases k <;> rfl

/-- Words stored one after the other: byte `4 i + k` is byte `k` of word `i`. -/
theorem flatMap_wbytes_getD (ws : List Word) {i k : Nat} (hi : i < ws.length) (hk : k < 4) :
    (ws.flatMap wbytes).getD (4 * i + k) 0 = ws[i].extractLsb' (8 * k) 8 := by
  induction ws generalizing i with
  | nil => exact absurd hi (Nat.not_lt_zero i)
  | cons w ws ih =>
    rw [List.flatMap_cons]
    cases i with
    | zero =>
      rw [List.getD_append _ _ _ _ (by simpa using hk)]
      simpa using wbytes_getD w hk
    | succ i =>
      rw [List.getD_append_right _ _ _ _ (by rw [wbytes_length]; omega), wbytes_length,
        show 4 * (i + 1) + k - 4 = 4 * i + k by omega]
      exact ih (Nat.lt_of_succ_lt_succ hi)

/-- 40_cipher R146: the words of the block. -/
theorem salsa20Block_eq_flatMap (s : Vector Word 16) :
    salsa20Block s = ((List.finRange 16).map fun i => (doubleRound^[10] s)[i] + s[i]).flatMap wbytes := by
  rw [List.flatMap_map]
  rfl

/-- 40_cipher R149: the words of the counter after an advance. -/
theorem ctrAdvance_advance_counter (x : Vector Word 16) :
    (ctrAdvance .advance x)[8] = x[8] + 1 ∧
    (ctrAdvance .advance x)[9] = if x[8] + 1 = 0 then x[9] + 1 else x[9] := by
  simp only [ctrAdvance, Vector.getElem_set_self]
  split <;> simp

/-- A carry out of the low word goes into the high word: together they count modulo 2^64. -/
theorem append_add_one (hi lo : Word) :
    (if lo + 1 = 0 then hi + 1 else hi) ++ (lo + 1) = (hi ++ lo : BitVec 64) + 1 := by
  have value (a b : Word) : (a ++ b).toNat = a.toNat * 2 ^ 32 + b.toNat := by
    rw [BitVec.toNat_append, ← Nat.shiftLeft_add_eq_or_of_lt b.isLt, Nat.shiftLeft_eq]
  apply BitVec.eq_of_toNat_eq
  rw [value, BitVec.toNat_add (_ ++ _), value]
  have hhi := hi.isLt
  by_cases h : lo + 1 = 0
  · have hcarry : lo.toNat + 1 = 2 ^ 32 := by bv_omega
    rw [if_pos h, h]
    simp
    omega
  · have hroom : lo.toNat + 1 < 2 ^ 32 := by bv_omega
    rw [if_neg h]
    simp
    omega

theorem ivWords_getElem_kept (nonce : List Byte) (x : Vector Word 16) {i : Nat} (hi : i < 16) (h : i < 6 ∨ 9 < i) :
    (ivWords nonce x)[i] = x[i] := by
  simp [ivWords, show 6 ≠ i ∧ 7 ≠ i ∧ 8 ≠ i ∧ 9 ≠ i by omega]

theorem ivWords_getElem_loaded (nonce : List Byte) (x : Vector Word 16) :
    (ivWords nonce x)[6] = le32 nonce 0 ∧ (ivWords nonce x)[7] = le32 nonce 4 ∧
    (ivWords nonce x)[8] = 0 ∧ (ivWords nonce x)[9] = 0 := by
  simp [ivWords]

/-- 40_cipher R145: setting up a nonce keeps nothing of words 6 to 9. -/
theorem ivWords_congr {x y : Vector Word 16} (nonce : List Byte)
    (h : ∀ (i : Nat) (_ : i < 16), i < 6 ∨ 9 < i → x[i] = y[i]) : ivWords nonce x = ivWords nonce y := by
  refine Vector.ext fun i hi => ?_
  by_cases hkept : i < 6 ∨ 9 < i
  · rw [ivWords_getElem_kept nonce x hi hkept, ivWords_getElem_kept nonce y hi hkept, h i hi hkept]
  · obtain rfl | rfl | rfl | rfl : i = 6 ∨ i = 7 ∨ i = 8 ∨ i = 9 := by omega
    all_goals simp [ivWords]

end Sys2Proof.Machine

namespace Sys2Proof.Claims

open Sys2Proof.Machine

/-- Settles O11: each round is its four quarter-rounds, and the block is sixteen words stored one after the other. -/
theorem blockIsTenDoubleRounds : Obligations.BlockIsTenDoubleRounds := by
  refine ⟨fun x => ?_, fun s => ⟨salsa20Block_length s, fun i hi k hk => ?_⟩⟩
  · rw [doubleRound, foldl_rowRound, foldl_columnRound]
  · rw [salsa20Block_eq_flatMap, flatMap_wbytes_getD _ (by simpa using hi) hk]
    simp

/-- Settles O15: an advance carries from word 8 into word 9. -/
theorem blockCounterAdvances : Obligations.BlockCounterAdvances := by
  intro x
  obtain ⟨hlo, hhi⟩ := ctrAdvance_advance_counter x
  refine ⟨ctrAdvance_frozen x, ?_, fun i hi => ctrAdvance_getElem x i hi⟩
  rw [hlo, hhi]
  exact append_add_one x[9] x[8]

end Sys2Proof.Claims
end

section
/-! The cipher engine's commands, from their operands to the next state (40_cipher R140 to R152). -/

namespace Sys2Proof.Claims

open Sys2Proof.Machine

variable {i j : Instr} {s : State}

/-! Words with a reserved bit set (30_encoding R114, R115). -/

/-- A row is told by its match, so by its opcode. -/
theorem rowOf_congr (h : i.opcode = j.opcode) : rowOf i = rowOf j := by
  refine List.inj_on_of_nodup_map (f := Prod.fst) (by simp [matchMask]) (rowOf_mem i) (rowOf_mem j) ?_
  rw [rowOf_match, rowOf_match, h]

/-- A word with a command's opcode that is not of its row does not decode. -/
theorem reservedBitsRejected_row (i : Instr) : ReservedBitsRejected i.opcode (rowOf i).2 (rowOf i).1 := by
  intro w hop hw
  cases h : decode w with
  | ok j =>
    obtain ⟨-, rfl⟩ := encode_of_decode h
    rw [opField_encode] at hop
    exact absurd (rowOf_congr hop ▸ encode_matches_row j) hw
  | error e =>
    rcases decode_error h with ⟨-, rfl⟩ | ⟨hbad, -⟩
    · rfl
    · exact absurd (hop ▸ opcode_mem i) hbad

/-! The operands and their ranges (30_encoding R113, R116). -/

theorem Fits.pastBuf {a : Half} {n : Nat} (h : Fits s a n) : s.pastBuf a n = false := State.pastBuf_eq_false.mpr h

theorem pastBuf_of_not_fits {a : Half} {n : Nat} (h : ¬ Fits s a n) : s.pastBuf a n = true :=
  State.pastBuf_eq_true.mpr (Nat.lt_of_not_le h)

@[simp] theorem keyOutside_iff {sel : KeySel} : keyOutside sel s = true ↔ ¬ KeyFits sel s := by
  cases sel <;> simp [keyOutside, KeyFits, Fits]

@[simp] theorem nonceOutside_iff {sel : NonceSel} {a : Half} : nonceOutside sel a s = true ↔ ¬ NonceFits sel a s := by
  cases sel <;> simp [nonceOutside, NonceFits, Fits]

theorem withKey_of_operand {sel : KeySel} {key : List Byte} {use : List Byte → Result}
    (h : keyOperand sel s = some key) : withKey sel s use = use key := by
  cases sel with
  | psk => exact congrArg use (Option.some.inj h)
  | buf => exact withBuf_of_some h

theorem withNonce_of_operand {sel : NonceSel} {a : Half} {nonce : List Byte} {use : List Byte → Result}
    (h : nonceOperand sel a s = some nonce) : withNonce sel a s use = use nonce := by
  cases sel with
  | nonce => exact congrArg use (Option.some.inj h)
  | buf => exact withBuf_of_some h

/-- Two states with the same `NONCE`, whose BUF reads the same where a nonce in BUF stands. -/
theorem nonceOperand_congr {t : State} {sel : NonceSel} {a : Half} (hn : t.nonce = s.nonce)
    (hb : sel = .buf → ∀ k < 8, t.bufByte (a.toNat + k) = s.bufByte (a.toNat + k)) :
    nonceOperand sel a t = nonceOperand sel a s := by
  cases sel with
  | nonce => exact congrArg (some ·.toList) hn
  | buf => exact State.bufBytes_congr (hb rfl)

/-! The effect of each command when it raises no error. -/

theorem exec_keysetup {sel : KeySel} {key : List Byte} (hfits : KeyFits sel s) (hkey : keyOperand sel s = some key) :
    exec (.keysetup sel) s = .next (s.keySetup key) :=
  (guarded_of_ok (by simp [hfits])).trans (withKey_of_operand hkey)

theorem exec_ivsetup {sel : NonceSel} {nonce : List Byte} (hstage : s.csStage ≠ .empty)
    (hfits : NonceFits sel s.src s) (hnonce : nonceOperand sel s.src s = some nonce) :
    exec (.ivsetup sel) s = .next (s.ivSetup nonce) :=
  (guarded_of_ok (by simp [hstage, hfits])).trans (withNonce_of_operand hnonce)

theorem exec_genblock (hstage : s.csStage = .ready) (hfits : Fits s s.dst 64) :
    exec .genblock s = .next (s.putBuf s.dst.toNat (salsa20Block s.cs)) :=
  (guarded_of_ok (by simp [hstage, hfits.pastBuf])).trans (writeBuf_of_fits (by rw [salsa20Block_length]; exact hfits))

/-- The state XCRYPT leaves: the output stored, the counter advanced (40_cipher R150). -/
def xcrypted (input : List Byte) (s : State) : State :=
  (s.putBuf s.dst.toNat (xcrypt s.cfg.ctrMode s.cs input).1).setCs (xcrypt s.cfg.ctrMode s.cs input).2

theorem exec_xcrypt {len : Nat} {input : List Byte} (hstage : s.csStage = .ready) (hsrc : Fits s s.src len)
    (hdst : Fits s s.dst len) (hin : s.bufBytes s.src.toNat len = some input) :
    exec (.xcrypt len) s = .next (xcrypted input s) := by
  have hstore : s.dst.toNat + (xcrypt s.cfg.ctrMode s.cs input).1.length ≤ s.cfg.bufSize := by
    rw [xcrypt_length, State.bufBytes_length hin]
    exact hdst
  calc exec (.xcrypt len) s = withBuf s s.src.toNat len _ := guarded_of_ok (by simp [hstage, hsrc.pastBuf, hdst.pastBuf])
    _ = _ := withBuf_of_some hin
    _ = .next (xcrypted input s) := by
      dsimp only
      rw [writeBuf_of_fits hstore]
      rfl

theorem xcrypted_cs {input : List Byte} :
    (xcrypted input s).cs = afterBlocks s.cfg.ctrMode (blockCount input.length) s.cs := xcrypt_state _ _

theorem xcrypted_bufBytes {input : List Byte} :
    (xcrypted input s).bufBytes s.dst.toNat input.length = some (xcrypt s.cfg.ctrMode s.cs input).1 := by
  have h := s.bufBytes_putBuf s.dst.toNat (xcrypt s.cfg.ctrMode s.cs input).1
  rw [xcrypt_length] at h
  exact h

theorem xcrypted_sameOutside {input : List Byte} : SameOutside s (xcrypted input s) s.dst.toNat input.length :=
  fun _ => State.bufByte_of_buf_putBuf rfl (xcrypt_length _ _)

theorem xcrypt_xored (mode : CtrMode) (x : Vector Word 16) (input : List Byte) :
    Xored mode x input (xcrypt mode x input).1 :=
  ⟨xcrypt_length x input, xcrypt_getD x input⟩

/-- XCRYPT over the output of an XCRYPT from the same cipher state gives the input back (40_cipher R151). -/
theorem exec_xcrypt_output {len : Nat} {mode : CtrMode} {input : List Byte} {x : Vector Word 16}
    (hmode : s.cfg.ctrMode = mode) (hcs : s.cs = x) (hstage : s.csStage = .ready) (hsrc : Fits s s.src len)
    (hdst : Fits s s.dst len) (hlen : input.length = len)
    (hin : s.bufBytes s.src.toNat len = some (xcrypt mode x input).1) :
    ∃ t, exec (.xcrypt len) s = .next t ∧ t.bufBytes s.dst.toNat len = some input := by
  subst hmode hcs hlen
  refine ⟨_, exec_xcrypt hstage hsrc hdst hin, ?_⟩
  have h := xcrypted_bufBytes (s := s) (input := (xcrypt s.cfg.ctrMode s.cs input).1)
  rwa [xcrypt_length, xcrypt_xcrypt] at h

/-- Setting up a nonce gives the same cipher state again after any number of blocks (40_cipher R151). -/
theorem ivWords_afterBlocks (nonce : List Byte) (mode : CtrMode) (n : Nat) (x : Vector Word 16) :
    ivWords nonce (afterBlocks mode n (ivWords nonce x)) = ivWords nonce x := by
  refine ivWords_congr nonce fun i hi hkept => ?_
  rw [afterBlocks, ctrAdvance_iterate_getElem _ _ i hi (by omega) (by omega), ivWords_getElem_kept nonce x hi hkept]

/-- The nonce operand is still there after an XCRYPT whose output is apart from it. -/
theorem xcrypted_nonceOperand {sel : NonceSel} {n : Half} {input : List Byte}
    (hapart : sel = .buf → s.dst.toNat + input.length ≤ n.toNat ∨ n.toNat + 8 ≤ s.dst.toNat) :
    nonceOperand sel n (xcrypted input s) = nonceOperand sel n s := by
  refine nonceOperand_congr rfl fun hsel k hk => xcrypted_sameOutside _ ?_
  have := hapart hsel
  omega

/-- 40_cipher R151 from a state just set up for a nonce: the second IVSETUP, or the still counter of `Frozen` mode, gives the
cipher state of the first XCRYPT again. -/
theorem exec_xcrypt_twice {sel : NonceSel} {len : Nat} {pt nonce : List Byte} {x : Vector Word 16} {n d : Half}
    (hstage : s.csStage = .ready) (hcs : s.cs = ivWords nonce x) (hnfits : NonceFits sel n s)
    (hnonce : nonceOperand sel n s = some nonce)
    (hapart : sel = .buf → s.dst.toNat + len ≤ n.toNat ∨ n.toNat + 8 ≤ s.dst.toNat) (hsrc : Fits s s.src len)
    (hdst : Fits s s.dst len) (hd : Fits s d len) (hpt : s.bufBytes s.src.toNat len = some pt) :
    ∃ s2 s3 s4, exec (.xcrypt len) s = .next s2 ∧ exec (.ivsetup sel) { s2 with src := n } = .next s3 ∧
      exec (.xcrypt len) { s3 with src := s.dst, dst := d } = .next s4 ∧ s4.bufBytes d.toNat len = some pt ∧
      (s.cfg.ctrMode = .frozen →
        ∃ u, exec (.xcrypt len) { s2 with src := s.dst, dst := d } = .next u ∧ u.bufBytes d.toNat len = some pt) := by
  obtain rfl := State.bufBytes_length hpt
  have hstage2 : (xcrypted pt s).csStage = .ready := hstage
  have hout : (xcrypted pt s).bufBytes s.dst.toNat pt.length = some (xcrypt s.cfg.ctrMode s.cs pt).1 := xcrypted_bufBytes
  have hnonce2 := (xcrypted_nonceOperand hapart).trans hnonce
  have third : exec (.ivsetup sel) { xcrypted pt s with src := n } = .next _ :=
    exec_ivsetup (by simp [hstage2]) hnfits hnonce2
  have hagain : ivWords nonce (xcrypted pt s).cs = s.cs := by rw [xcrypted_cs, hcs, ivWords_afterBlocks]
  obtain ⟨t, fourth, ht⟩ :=
    exec_xcrypt_output (s := { ({ xcrypted pt s with src := n } : State).ivSetup nonce with src := s.dst, dst := d })
      rfl hagain rfl hdst hd rfl hout
  refine ⟨_, _, t, exec_xcrypt hstage hsrc hdst hpt, third, fourth, ht, fun hmode => ?_⟩
  have hfrozen : (xcrypted pt s).cs = s.cs := by
    rw [xcrypted_cs, hmode, afterBlocks, ctrAdvance_iterate_frozen]
  exact exec_xcrypt_output (s := { xcrypted pt s with src := s.dst, dst := d }) rfl hfrozen hstage2 hdst hd rfl hout

theorem xor_xor_xor_cancel (a b k : Byte) : a ^^^ k ^^^ (b ^^^ k) = a ^^^ b := by
  rw [BitVec.xor_comm b, BitVec.xor_assoc, ← BitVec.xor_assoc k k, BitVec.xor_self, BitVec.zero_xor]

/-- Settles O10: NOP answers its state, and zero is the only word of its row. -/
theorem nopChangesNothing : Obligations.NopChangesNothing :=
  ⟨fun _ => rfl, reservedBitsRejected_row .nop⟩

/-- Settles O12: the effect is `keyWords`, word by word. -/
theorem keysetupLoadsTheKey : Obligations.KeysetupLoadsTheKey := by
  refine ⟨fun sel s key hfits hkey => ?_, fun sel s hfits => ?_, reservedBitsRejected_row (.keysetup .psk)⟩
  · refine ⟨_, exec_keysetup hfits hkey, rfl, rfl, rfl, rfl, rfl, fun i hi => ?_, rfl, rfl, rfl, rfl⟩
    interval_cases i <;> exact ⟨rfl, rfl⟩
  · exact guarded_of_error (e := .bounds) (by simp [hfits])

/-- Settles O13: the effect is `ivWords`, which sets words 6 to 9 alone. -/
theorem ivsetupLoadsTheNonce : Obligations.IvsetupLoadsTheNonce := by
  refine ⟨fun sel s nonce hstage hfits hnonce => ?_, fun sel s hstage => ?_, fun sel s hstage hfits => ?_,
    reservedBitsRejected_row (.ivsetup .nonce)⟩
  · obtain ⟨h6, h7, h8, h9⟩ := ivWords_getElem_loaded nonce s.cs
    exact ⟨_, exec_ivsetup hstage hfits hnonce, rfl, h6, h7, h8, h9, fun _ => ivWords_getElem_kept nonce s.cs⟩
  · exact guarded_of_error (e := .sequence) (by simp [hstage])
  · exact guarded_of_error (e := .bounds) (by simp [hstage, hfits])

/-- Settles O14: the effect is one store of the block. -/
theorem genblockStoresTheBlock : Obligations.GenblockStoresTheBlock := by
  refine ⟨fun s hstage hfits => ?_, fun s hstage => ?_, fun s hstage hfits => ?_, reservedBitsRejected_row .genblock⟩
  · obtain ⟨hstored, hsame⟩ := putBuf_stored (s := s) (a := s.dst.toNat) (bytes := salsa20Block s.cs)
    have hlen := salsa20Block_length s.cs
    exact ⟨_, exec_genblock hstage hfits, s.putBuf_eq _ _, hlen, hstored, hlen ▸ hsame⟩
  · exact guarded_of_error (e := .sequence) (by simp [hstage])
  · exact guarded_of_error (e := .bounds) (by simp [hstage, pastBuf_of_not_fits hfits])

/-- Settles O16: the effect is one store of the output, and the cipher state after the blocks. -/
theorem xcryptXorsTheKeystream : Obligations.XcryptXorsTheKeystream := by
  refine ⟨fun len s input hstage hsrc hdst hin => ?_, fun len s hstage => ?_, fun len s hstage hfits => ?_,
    reservedBitsRejected_row (.xcrypt 0)⟩
  · obtain rfl := State.bufBytes_length hin
    refine ⟨_, _, exec_xcrypt hstage hsrc hdst hin, ?_, xcrypt_xored _ _ _, State.bufBytes_putBuf _ _,
      xcrypted_sameOutside⟩
    rw [← xcrypted_cs]
    rfl
  · exact guarded_of_error (e := .sequence) (by simp [hstage])
  · refine guarded_of_error (e := .bounds) ?_
    by_cases hsrc : Fits s s.src len
    · have hdst : ¬ Fits s s.dst len := fun hdst => hfits ⟨hsrc, hdst⟩
      simp [hstage, hsrc.pastBuf, pastBuf_of_not_fits hdst]
    · simp [hstage, pastBuf_of_not_fits hsrc]

/-- Settles O17: after the first IVSETUP the engine is in a state as `exec_xcrypt_twice` asks for. -/
theorem xcryptTwiceGivesThePlaintext : Obligations.XcryptTwiceGivesThePlaintext := by
  intro sel s len pt nonce n a b d hstage hnfits hnonce hapart ha hb hd hpt
  have first : exec (.ivsetup sel) { s with src := n } = .next _ := exec_ivsetup hstage hnfits hnonce
  obtain ⟨s2, s3, s4, second, third, fourth, hfinal, hfrozen⟩ :=
    exec_xcrypt_twice (s := { ({ s with src := n } : State).ivSetup nonce with src := a, dst := b }) (x := s.cs)
      rfl rfl hnfits hnonce hapart ha hb hd hpt
  exact ⟨_, s2, s3, s4, first, second, third, fourth, hfinal, hfrozen⟩

/-- Settles O18: in `Frozen` mode the block is the same at both places. -/
theorem frozenModeReusesTheKeystream : Obligations.FrozenModeReusesTheKeystream := by
  intro len s input hmode hstage hsrc hdst hin
  obtain rfl := State.bufBytes_length hin
  refine ⟨_, _, exec_xcrypt hstage hsrc hdst hin, xcrypted_bufBytes, fun p hp => ?_⟩
  rw [hmode, xcrypt_getD _ _ _ (by omega), xcrypt_getD _ _ _ hp, ctrAdvance_iterate_frozen, ctrAdvance_iterate_frozen,
    Nat.add_mod_right, xor_xor_xor_cancel]

end Sys2Proof.Claims
end

section
/-! The KeyStore: the stored record as 33 bytes whose XOR is the check, and its commands, from the record to the next
state (41_keystore R170 to R177). -/

namespace Sys2Proof.Machine

variable {s : State}

/-! The XOR of a byte sequence (00_scope R15). -/

theorem xor8_append (l r : List Byte) : xor8 (l ++ r) = xor8 l ^^^ xor8 r := by
  induction l with
  | nil => simp [xor8]
  | cons b l ih => rw [List.cons_append, xor8, xor8, ih, BitVec.xor_assoc]

/-- A byte XORed with `d` moves the XOR of the sequence by `d`. -/
theorem xor8_set_xor (d : Byte) {l : List Byte} {k : Nat} (hk : k < l.length) :
    xor8 (l.set k (l[k] ^^^ d)) = xor8 l ^^^ d := by
  induction l generalizing k with
  | nil => cases hk
  | cons b l ih =>
    cases k with
    | zero => simp only [List.set_cons_zero, List.getElem_cons_zero, xor8]; ac_rfl
    | succ k =>
      simp only [List.set_cons_succ, List.getElem_cons_succ, xor8, ih (Nat.lt_of_succ_lt_succ hk), BitVec.xor_assoc]

/-! The stored record: 32 key bytes, then the checksum (20_memory R87). -/

/-- The key bytes and the checksum byte of the stored record, as one sequence. -/
def State.record (s : State) : List Byte := List.ofFn fun i : Fin 33 => s.nvmByte (s.cfg.nvmKeyAddr + i.val)

@[simp] theorem State.record_length : s.record.length = 33 := List.length_ofFn

theorem State.record_getElem {k : Nat} (hk : k < s.record.length) : s.record[k] = s.nvmByte (s.cfg.nvmKeyAddr + k) :=
  List.getElem_ofFn hk

theorem State.record_eq_append : s.record = s.storedKey.toList ++ [s.storedChecksum] := by
  rw [State.storedKey, Vector.toList_ofFn]
  exact List.ofFn_succ_last

/-- The checksum checks exactly when the XOR of the whole record is zero. -/
theorem State.xor8_record_eq_zero_iff : xor8 s.record = 0 ↔ xor8 s.storedKey.toList = s.storedChecksum := by
  rw [State.record_eq_append, xor8_append]
  simp [xor8]

theorem State.record_nvmWrite {k : Nat} (v : Byte) :
    (s.nvmWrite (s.cfg.nvmKeyAddr + k) v).record = s.record.set k v := by
  refine List.ext_getElem (by simp) fun i hi _ => ?_
  rw [State.record_getElem, State.nvmByte_nvmWrite, List.getElem_set]
  simp [State.record_getElem, State.nvmWrite, eq_comm]

/-! What `load` finds (41_keystore R171). -/

theorem State.markerMatches_iff : s.markerMatches = true ↔ s.nvmByte s.cfg.nvmMarkerAddr = s.cfg.markerValue :=
  decide_eq_true_iff

theorem State.loadOutcome_invalid (h : s.nvmByte s.cfg.nvmMarkerAddr ≠ s.cfg.markerValue) : s.loadOutcome = .invalid :=
  if_neg (mt State.markerMatches_iff.mp h)

theorem State.loadOutcome_stored (h : s.nvmByte s.cfg.nvmMarkerAddr = s.cfg.markerValue) :
    s.loadOutcome = if xor8 s.storedKey.toList = s.storedChecksum then .valid else .error :=
  if_pos (State.markerMatches_iff.mpr h)

theorem State.loadOutcome_eq_valid_iff :
    s.loadOutcome = .valid ↔ s.nvmByte s.cfg.nvmMarkerAddr = s.cfg.markerValue ∧ xor8 s.record = 0 := by
  rw [State.xor8_record_eq_zero_iff]
  by_cases hm : s.nvmByte s.cfg.nvmMarkerAddr = s.cfg.markerValue
  · simp [State.loadOutcome_stored hm, hm]
  · simp [State.loadOutcome_invalid hm, hm]

theorem State.load_key (h : s.nvmByte s.cfg.nvmMarkerAddr = s.cfg.markerValue) : s.load.key = s.storedKey :=
  if_pos (State.markerMatches_iff.mpr h)

/-- The marker stands apart from the key bytes and the checksum (00_scope R9). -/
theorem Config.marker_ne_record {c : Config} (hw : c.wf) {k : Nat} (hk : k ≤ 32) :
    c.nvmMarkerAddr ≠ c.nvmKeyAddr + k := by
  obtain ⟨-, -, -, -, -, -, -, -, hapart, -⟩ := hw
  omega

/-- A record that loads as Valid, with one of its 33 bytes changed, loads as Error. -/
theorem State.loadOutcome_byte_changed (hw : s.cfg.wf) (hv : s.loadOutcome = .valid) {k : Nat} (hk : k ≤ 32) {d : Byte}
    (hd : d ≠ 0) :
    (s.nvmWrite (s.cfg.nvmKeyAddr + k) (s.nvmByte (s.cfg.nvmKeyAddr + k) ^^^ d)).loadOutcome = .error := by
  obtain ⟨hmarker, hcheck⟩ := State.loadOutcome_eq_valid_iff.mp hv
  have hlen : k < s.record.length := by rw [State.record_length]; omega
  refine (State.loadOutcome_stored ?_).trans (if_neg (mt State.xor8_record_eq_zero_iff.mpr ?_))
  · exact (State.nvmByte_nvmWrite _ _ _).trans ((if_neg (Config.marker_ne_record hw hk)).trans hmarker)
  · rw [State.record_nvmWrite, ← State.record_getElem hlen, xor8_set_xor d hlen, hcheck]
    simpa using hd

theorem State.loadOutcome_marker_changed {m : Byte} (hm : m ≠ s.cfg.markerValue) :
    (s.nvmWrite s.cfg.nvmMarkerAddr m).loadOutcome = .invalid := by
  refine State.loadOutcome_invalid ?_
  rw [State.nvmByte_nvmWrite]
  exact (if_pos rfl).trans_ne hm

end Sys2Proof.Machine

namespace Sys2Proof.Claims

open Sys2Proof.Machine

variable {s t : State}

/-! `store_seq` (41_keystore R170). -/

/-- The log entries of `store_seq`, in its order. -/
theorem storeSeq_nvmLog (key : Vector Byte 32) : (s.storeSeq key.toList).nvmLog = s.nvmLog ++ storeLog s.cfg key := by
  have hkey : (key.toList.zipIdx s.cfg.nvmKeyAddr).map (fun x => (x.2, x.1)) =
      (List.finRange 32).map fun i => (s.cfg.nvmKeyAddr + i.val, key[i]) :=
    List.ext_getElem (by simp) fun i _ _ => by simp
  rw [State.storeSeq_eq, storeLog, ← hkey, List.append_assoc]

theorem storeSeq_cfg {key : List Byte} : (s.storeSeq key).cfg = s.cfg := by rw [State.storeSeq_eq]

theorem storeSeq_recordStored (hw : s.cfg.wf) (key : Vector Byte 32) : RecordStored s (s.storeSeq key.toList) key := by
  have hread := s.nvmByte_storeSeq key.toList (by simp)
  refine ⟨fun i => ?_, ?_, ?_, fun a ha hm => ?_⟩
  · have hm := Config.marker_ne_record hw (k := i.val) (by omega)
    rw [hread, if_neg hm.symm, if_neg (by omega), if_pos (by omega)]
    simp
  · rw [hread, if_neg (Config.marker_ne_record hw (Nat.le_refl 32)).symm, if_pos rfl]
  · rw [hread, if_pos rfl]
  · rw [hread, if_neg hm, if_neg (by omega), if_neg (by omega)]

/-- A stored record loads back as its key, Valid (41_keystore R176). -/
theorem RecordStored.load {key : Vector Byte 32} (h : RecordStored s t key) (hcfg : t.cfg = s.cfg) :
    t.load.key = key ∧ t.loadOutcome = .valid := by
  obtain ⟨hkey, hsum, hmarker, -⟩ := h
  rw [← hcfg] at hkey hsum hmarker
  have hstored : t.storedKey = key := Vector.ext fun i hi => by simpa [State.storedKey] using hkey ⟨i, hi⟩
  refine ⟨(State.load_key hmarker).trans hstored, ?_⟩
  rw [State.loadOutcome_stored hmarker, hstored]
  exact if_pos hsum.symm

/-! The effect of each command when it raises no error. -/

theorem exec_ksStore (h : s.pskStatus = .valid) : exec .ksStore s = .next (s.storeSeq s.key.toList) :=
  guarded_of_ok (by simp [h])

theorem exec_ksInitdef (h : s.pskStatus = .invalid) : exec .ksInitdef s = .next s.initDefault :=
  guarded_of_ok (by simp [h])

theorem exec_ksVerify {key : List Byte} (hfits : Fits s s.src 32) (hkey : s.bufBytes s.src.toNat 32 = some key) :
    exec .ksVerify s = .next (s.setResult (keystoreResult (s.verifyOutcome key))) :=
  (guarded_of_ok (by simp [hfits.pastBuf])).trans (withBuf_of_some hkey)

theorem keystoreResult_verifyOutcome (key : List Byte) :
    keystoreResult (s.verifyOutcome key) =
      if (∀ b ∈ key, b = 0x00) ∨ (∀ b ∈ key, b = 0xFF) then 0 else if xor8 key = s.storedChecksum then 1 else 2 := by
  unfold State.verifyOutcome
  simp only [List.all_eq_true, decide_eq_true_eq]
  split
  · rfl
  · split <;> rfl

/-- Settles O20: one flipped bit moves the XOR of the record off zero; a wrong marker is seen first. -/
theorem oneFlippedBitIsDetected : Obligations.OneFlippedBitIsDetected := by
  intro s t b hw hb hload hvalid
  obtain rfl := execKsLoad_next.mp hload
  have hbit : BitVec.twoPow 8 b ≠ 0 := fun h => by simpa [hb] using congrArg (·.getLsbD b) h
  refine ⟨fun k hk => ?_, fun m hm => ?_⟩
  · have hout := State.loadOutcome_byte_changed hw hvalid hk hbit
    exact ⟨_, rfl, hout, congrArg keystoreResult hout⟩
  · have hout := State.loadOutcome_marker_changed hm
    exact ⟨_, rfl, hout, congrArg keystoreResult hout⟩

/-- Settles O24: KS_LOAD finds the record KS_STORE wrote. -/
theorem storeThenLoadIsValid : Obligations.StoreThenLoadIsValid := by
  intro s hw hvalid
  obtain ⟨hkey, hout⟩ := (storeSeq_recordStored hw s.key).load storeSeq_cfg
  exact ⟨_, _, exec_ksStore hvalid, rfl, hkey, hout, congrArg keystoreResult hout⟩

/-- Settles O19: the marker decides whether `KEY` is loaded, the checksum decides between Valid and Error. -/
theorem ksLoadClassifiesTheRecord : Obligations.KsLoadClassifiesTheRecord := by
  refine ⟨fun s hm => ?_, fun s hm => ⟨_, rfl, s.load_eq, fun i => ?_, ?_⟩, reservedBitsRejected_row .ksLoad⟩
  · have hkey : s.load.key = s.key := if_neg (mt State.markerMatches_iff.mp hm)
    refine congrArg _ (s.load_eq.trans ?_)
    rw [hkey, State.loadOutcome_invalid hm]
    rfl
  · rw [State.load_key hm]
    simp [State.storedKey]
  · have hout := State.loadOutcome_stored hm
    rw [State.load_key hm, ite_prop_iff_and]
    refine ⟨fun hsum => ?_, fun hsum => ?_⟩
    · have hvalid := hout.trans (if_pos hsum)
      exact ⟨hvalid, congrArg keystoreResult hvalid⟩
    · have herror := hout.trans (if_neg hsum)
      exact ⟨herror, congrArg keystoreResult herror⟩

/-- Settles O21: the effect is one write of `RESULT`. -/
theorem ksVerifyClassifiesTheCandidate : Obligations.KsVerifyClassifiesTheCandidate := by
  refine ⟨fun s key hfits hkey => ?_, fun s hfits => ?_, reservedBitsRejected_row .ksVerify⟩
  · rw [exec_ksVerify hfits hkey, keystoreResult_verifyOutcome]
    rfl
  · exact guarded_of_error (e := .bounds) (by simp [pastBuf_of_not_fits hfits])

/-- Settles O22: the effect is `store_seq` of `KEY`. -/
theorem ksStoreWritesTheRecord : Obligations.KsStoreWritesTheRecord := by
  refine ⟨fun s hw hvalid => ⟨_, exec_ksStore hvalid, ?_, storeSeq_recordStored hw s.key⟩, fun s hstatus => ?_,
    reservedBitsRejected_row .ksStore⟩
  · rw [← storeSeq_nvmLog, State.storeSeq_eq]
  · exact guarded_of_error (e := .state) (by simp [hstatus])

/-- Settles O23: the effect is `store_seq` of the default key, and that key in `KEY`. -/
theorem ksInitdefInstallsTheDefault : Obligations.KsInitdefInstallsTheDefault := by
  refine ⟨fun s hw hinvalid => ⟨_, exec_ksInitdef hinvalid, ?_, storeSeq_recordStored hw s.cfg.defaultPsk⟩,
    fun s hstatus => ?_, reservedBitsRejected_row .ksInitdef⟩
  · rw [← storeSeq_nvmLog]
    exact s.initDefault_eq
  · exact guarded_of_error (e := .state) (by simp [hstatus])

end Sys2Proof.Claims
end

section
/-! The nonce as a number and in its order, and its commands, from their operands to the next state (42_nonce R191 to
R195). -/

namespace Sys2Proof.Machine

variable {as bs : List Byte} {x y : Byte}

/-! The order by the first difference, byte 0 most significant (42_nonce R193). -/

theorem compareBytes_cons_of_ne (h : x ≠ y) : compareBytes (x :: as) (y :: bs) = if y < x then .gt else .lt := by
  rw [compareBytes]
  split
  · rfl
  · next hlt => exact if_pos (by bv_omega)

@[simp] theorem compareBytes_cons_self : compareBytes (x :: as) (x :: bs) = compareBytes as bs := by
  simp [compareBytes]

/-- Equal leading bytes do not decide. -/
theorem compareBytes_append_left (p : List Byte) : compareBytes (p ++ as) (p ++ bs) = compareBytes as bs := by
  induction p with
  | nil => rfl
  | cons x p ih => exact compareBytes_cons_self.trans ih

/-- Greater is a first difference, at an index of the operands, where the left byte is the greater one. -/
theorem compareBytes_eq_gt_iff_exists (h : as.length = bs.length) :
    compareBytes as bs = .gt ↔
      ∃ i < as.length, (∀ j < i, as.getD j 0 = bs.getD j 0) ∧ bs.getD i 0 < as.getD i 0 := by
  induction as generalizing bs with
  | nil => simp [compareBytes]
  | cons x as ih =>
    cases bs with
    | nil => simp at h
    | cons y bs =>
      simp only [List.length_cons, Nat.exists_lt_succ_left, Nat.forall_lt_succ_left, List.getD_cons_zero,
        List.getD_cons_succ]
      by_cases hxy : x = y
      · subst hxy
        simp [ih (by simpa using h)]
      · simp [compareBytes_cons_of_ne hxy, hxy]

theorem compareBytes_eq_lt_iff_gt : compareBytes as bs = .lt ↔ compareBytes bs as = .gt := by
  rw [compareBytes_swap]
  cases compareBytes bs as <;> decide

end Sys2Proof.Machine

namespace Sys2Proof.Claims

open Sys2Proof.Machine

variable {s : State} {as bs : List Byte}

/-! The increment as a number, byte 0 least significant (42_nonce R192). -/

theorem value_lt (n : List Byte) : value n < 256 ^ n.length := by
  induction n with
  | nil => exact Nat.one_pos
  | cons b rest ih =>
    have hb : b.toNat < 256 := b.isLt
    rw [value, List.length_cons, pow_succ']
    omega

theorem value_incBytes (n : List Byte) : value (incBytes n) = (value n + 1) % 256 ^ n.length := by
  induction n with
  | nil => rfl
  | cons b rest ih =>
    rw [List.length_cons, pow_succ', incBytes]
    split
    · next hb =>
      have hrest := value_lt rest
      have hnext : (b + 1).toNat = b.toNat + 1 := by bv_omega
      rw [value, value, hnext, Nat.mod_eq_of_lt] <;> omega
    · next hb =>
      have hzero : (b + 1).toNat = 0 := by bv_omega
      have hcarry : b.toNat + 1 = 256 := by bv_omega
      calc value ((b + 1) :: incBytes rest) = 256 * ((value rest + 1) % 256 ^ rest.length) := by
            rw [value, hzero, ih, Nat.zero_add]
        _ = 256 * (value rest + 1) % (256 * 256 ^ rest.length) := (Nat.mul_mod_mul_left _ _ _).symm
        _ = (value (b :: rest) + 1) % (256 * 256 ^ rest.length) := by
            congr 1
            rw [value]
            omega

/-- The increment of a nonce adds one modulo 2^64. -/
theorem value_incBytes_nonce {n : List Byte} (h : n.length = 8) : value (incBytes n) = (value n + 1) % 2 ^ 64 := by
  rw [value_incBytes, h]
  norm_num

theorem value_incNonce (s : State) : value s.incNonce.nonce.toList = (value s.nonce.toList + 1) % 2 ^ 64 := by
  rw [State.incNonce_toList]
  exact value_incBytes_nonce (by simp)

/-! The order as the claims state it (42_nonce R193, R195). -/

theorem compareBytes_eq_gt_iff_greater (ha : as.length = 8) (hb : bs.length = 8) :
    compareBytes as bs = .gt ↔ Greater as bs := by
  rw [compareBytes_eq_gt_iff_exists (ha.trans hb.symm), ha]
  rfl

theorem adopts_iff_greater {peer : List Byte} (h : peer.length = 8) :
    s.adopts peer = true ↔ Greater peer s.nonce.toList := by
  rw [← compareBytes_eq_gt_iff_greater h (by simp)]
  exact decide_eq_true_iff

theorem value_resync_of_greater {peer : List Byte} (h : peer.length = 8) (hgreater : Greater peer s.nonce.toList) :
    value (s.resync peer).nonce.toList = (value peer + 1) % 2 ^ 64 := by
  have hresync : s.resync peer = s.setNonce (incBytes peer) := if_pos ((adopts_iff_greater h).mpr hgreater)
  rw [hresync, State.setNonce_toList (by simp [h]), value_incBytes_nonce h]

theorem resync_of_not_greater {peer : List Byte} (h : peer.length = 8) (hgreater : ¬ Greater peer s.nonce.toList) :
    s.resync peer = s := if_neg (mt (adopts_iff_greater h).mp hgreater)

/-! The effect of each command when it raises no error. -/

theorem exec_nonceInc_nonce : exec (.nonceInc .nonce) s = .next s.incNonce := rfl

theorem exec_nonceInc_buf {n : List Byte} (hfits : Fits s s.dst 8) (hn : s.bufBytes s.dst.toNat 8 = some n) :
    exec (.nonceInc .buf) s = .next (s.putBuf s.dst.toNat (incBytes n)) := by
  have hlen := State.bufBytes_length hn
  calc exec (.nonceInc .buf) s = withBuf s s.dst.toNat 8 _ := guarded_of_ok (by simp [NonceFits, hfits])
    _ = _ := withBuf_of_some hn
    _ = .next (s.putBuf s.dst.toNat (incBytes n)) := writeBuf_of_fits (by rw [incBytes_length, hlen]; exact hfits)

theorem exec_nonceCmp {sel : NonceSel} {a b : List Byte} (hsrc : Fits s s.src 8) (hdst : NonceFits sel s.dst s)
    (ha : s.bufBytes s.src.toNat 8 = some a) (hb : nonceOperand sel s.dst s = some b) :
    exec (.nonceCmp sel) s = .next (s.setResult (compareResult (compareBytes a b))) :=
  calc exec (.nonceCmp sel) s = withBuf s s.src.toNat 8 _ := guarded_of_ok (by simp [hsrc.pastBuf, hdst])
    _ = _ := withBuf_of_some ha
    _ = .next (s.setResult (compareResult (compareBytes a b))) := withNonce_of_operand hb

theorem exec_resync {peer : List Byte} (hfits : Fits s s.src 8) (hpeer : s.bufBytes s.src.toNat 8 = some peer) :
    exec .resync s = .next ((s.resync peer).setResult (boolResult (s.adopts peer))) :=
  (guarded_of_ok (by simp [hfits.pastBuf])).trans (withBuf_of_some hpeer)

theorem nonceOperand_length {sel : NonceSel} {a : Half} {n : List Byte} (h : nonceOperand sel a s = some n) :
    n.length = 8 := by
  cases sel with
  | nonce =>
    obtain rfl := Option.some.inj h
    simp
  | buf => exact State.bufBytes_length h

/-- Settles O25: the effect is `incBytes`, which is addition on the value, in `NONCE` or in one store. -/
theorem nonceIncAddsOne : Obligations.NonceIncAddsOne := by
  refine ⟨fun s => ⟨_, exec_nonceInc_nonce, s.incNonce_eq, value_incNonce s⟩, fun s n hfits hn => ?_,
    fun s hfits => ?_, reservedBitsRejected_row (.nonceInc .nonce)⟩
  · have hlen := State.bufBytes_length hn
    have hinc : (incBytes n).length = 8 := (incBytes_length n).trans hlen
    obtain ⟨hstored, hsame⟩ := putBuf_stored (s := s) (a := s.dst.toNat) (bytes := incBytes n)
    exact ⟨_, _, exec_nonceInc_buf hfits hn, s.putBuf_eq _ _, hinc, value_incBytes_nonce hlen, hstored, hinc ▸ hsame⟩
  · exact guarded_of_error (e := .bounds) (by simp [NonceFits, hfits])

/-- Settles O26: the effect is one write of `RESULT`, the code of the order by the first difference. -/
theorem nonceCmpFindsTheFirstDifference : Obligations.NonceCmpFindsTheFirstDifference := by
  refine ⟨fun sel s a b hsrc hdst ha hb => ?_, fun sel s hfits => guarded_of_error (e := .bounds) ?_,
    reservedBitsRejected_row (.nonceCmp .nonce)⟩
  · have hla := State.bufBytes_length ha
    have hlb := nonceOperand_length hb
    have heq : compareBytes a b = .eq ↔ a = b := compareBytes_eq (hla.trans hlb.symm)
    have hgt : compareBytes a b = .gt ↔ Greater a b := compareBytes_eq_gt_iff_greater hla hlb
    have hlt : compareBytes a b = .lt ↔ Greater b a :=
      compareBytes_eq_lt_iff_gt.trans (compareBytes_eq_gt_iff_greater hlb hla)
    refine ⟨_, exec_nonceCmp hsrc hdst ha hb, rfl, fun h => congrArg compareResult (heq.mpr h),
      fun h => congrArg compareResult (hgt.mpr h), fun h => congrArg compareResult (hlt.mpr h), ?_⟩
    rw [← heq, ← hgt, ← hlt]
    cases compareBytes a b <;> decide
  · by_cases hsrc : Fits s s.src 8
    · have hdst : ¬ NonceFits sel s.dst s := fun hdst => hfits ⟨hsrc, hdst⟩
      simp [hsrc.pastBuf, hdst]
    · simp [pastBuf_of_not_fits hsrc]

/-- Settles O27: the two orders are each other's swap, and neither the equal bytes before the first difference nor what
follows it decides. -/
theorem compareIsAntisymmetric : Obligations.CompareIsAntisymmetric := by
  refine ⟨fun a b ha hb => ⟨compareBytes_eq_lt_iff_gt.symm, compareBytes_eq (ha.trans hb.symm)⟩,
    fun p u v u' v' x y hxy => ?_⟩
  rw [compareBytes_append_left, compareBytes_append_left, compareBytes_cons_of_ne hxy, compareBytes_cons_of_ne hxy]

/-- Settles O28: a greater peer nonce is adopted by `incBytes` of it; the adoption is what `RESULT` says. -/
theorem resyncAdoptsAGreaterNonce : Obligations.ResyncAdoptsAGreaterNonce := by
  refine ⟨fun s peer hfits hpeer hgreater => ?_, fun s peer hfits hpeer hgreater => ?_, fun s hfits => ?_,
    reservedBitsRejected_row .resync⟩
  · have hlen := State.bufBytes_length hpeer
    have hadopts : s.adopts peer = true := (adopts_iff_greater hlen).mpr hgreater
    refine ⟨_, exec_resync hfits hpeer, ?_, value_resync_of_greater hlen hgreater⟩
    rw [hadopts, State.resync_eq]
    rfl
  · have hlen := State.bufBytes_length hpeer
    have hkeeps : s.adopts peer = false := by simpa [hgreater] using adopts_iff_greater (s := s) hlen
    rw [exec_resync hfits hpeer, resync_of_not_greater hlen hgreater, hkeeps]
    rfl
  · exact guarded_of_error (e := .bounds) (by simp [pastBuf_of_not_fits hfits])

end Sys2Proof.Claims
end

section
/-! The message codec: the envelope ENCODE stores, the plaintext DECODE recovers from one, and the two commands, from their
operands to the next state (43_codec R211 to R214). -/

namespace Sys2Proof.Machine

open Sys2Proof.Claims

variable {s : State} {n : Nat}

/-- A read of BUF is a read of its first part, and of the rest right after it. -/
theorem State.bufBytes_append {a : Nat} {l r : List Byte} (h : s.bufBytes a n = some (l ++ r)) :
    s.bufBytes a l.length = some l ∧ s.bufBytes (a + l.length) (n - l.length) = some r := by
  obtain ⟨hlen, hread⟩ := State.bufBytes_eq_some.mp h
  rw [List.length_append] at hlen
  refine ⟨State.bufBytes_eq_some.mpr ⟨rfl, fun i hi => ?_⟩, State.bufBytes_eq_some.mpr ⟨by omega, fun i hi => ?_⟩⟩
  · rw [hread i (by omega), List.getElem?_append_left hi]
  · rw [Nat.add_assoc, hread _ (by omega), List.getElem?_append_right (by omega), Nat.add_sub_cancel_left]

/-- The ciphertext the shared `encode` stores after the nonce. -/
def State.ciphertext (pt : List Byte) (s : State) : List Byte :=
  (xcrypt s.cfg.ctrMode (messageWords s.key.toList s.nonce.toList) pt).1

@[simp] theorem State.ciphertext_length (pt : List Byte) (s : State) : (s.ciphertext pt).length = pt.length :=
  xcrypt_length _ _

/-- A message's cipher state has nothing of the state before it (40_cipher R141, R142). -/
theorem State.plaintext_eq (hdr ct : List Byte) (s : State) :
    s.plaintext hdr ct = (xcrypt s.cfg.ctrMode (messageWords s.key.toList hdr) ct).1 := rfl

/-- Under the same key and counter mode the ciphertext decrypts to what was encrypted (43_codec R214). -/
theorem State.plaintext_ciphertext {r : State} (pt : List Byte) (hkey : r.key = s.key)
    (hmode : r.cfg.ctrMode = s.cfg.ctrMode) : r.plaintext s.nonce.toList (s.ciphertext pt) = pt := by
  rw [State.plaintext_eq, hkey, hmode]
  exact xcrypt_xcrypt _ _

end Sys2Proof.Machine

namespace Sys2Proof.Claims

open Sys2Proof.Machine

variable {s : State} {len : Nat} {pt hdr ct : List Byte}

/-! What is stored and what it is made of (43_codec R211, R213). -/

theorem Stored.setResult {t : State} {a : Nat} {bytes : List Byte} (h : Stored t a bytes) (v : Word) :
    Stored (t.setResult v) a bytes := h

theorem encoded_stored (dst : Nat) : Stored (s.encoded pt dst) dst (s.nonce.toList ++ s.ciphertext pt) :=
  State.bufBytes_putBuf _ _

theorem decoded_stored (dst : Nat) : Stored (s.decoded hdr ct dst) dst (s.plaintext hdr ct ++ [0x00]) :=
  State.bufBytes_putBuf _ _

theorem SameOutside.setResult {t : State} {a n : Nat} (h : SameOutside s t a n) (v : Word) :
    SameOutside s (t.setResult v) a n := h

theorem encoded_sameOutside (dst : Nat) : SameOutside s (s.encoded pt dst) dst (8 + pt.length) :=
  fun _ => State.bufByte_encoded_outside rfl

theorem decoded_sameOutside (dst : Nat) : SameOutside s (s.decoded hdr ct dst) dst (ct.length + 1) :=
  fun _ => State.bufByte_decoded_outside rfl

theorem ciphertext_xored : Xored s.cfg.ctrMode (messageWords s.key.toList s.nonce.toList) pt (s.ciphertext pt) :=
  xcrypt_xored _ _ _

theorem plaintext_xored : Xored s.cfg.ctrMode (messageWords s.key.toList hdr) ct (s.plaintext hdr ct) :=
  xcrypt_xored _ _ _

/-! The effect of each command when it raises no error. -/

theorem exec_encode (hlen : 8 + len ≤ s.cfg.maxPayload) (hsrc : Fits s s.src len) (hdst : Fits s s.dst (8 + len))
    (hpt : s.bufBytes s.src.toNat len = some pt) :
    exec (.encode len) s = .next ((s.encoded pt s.dst.toNat).setResult (BitVec.ofNat 32 (8 + len))) :=
  calc exec (.encode len) s = andThen (encodeAt s.src.toNat len s.dst.toNat s) _ :=
        guarded_of_ok (by simp [hlen, hsrc.pastBuf, hdst.pastBuf])
    _ = .next ((s.encoded pt s.dst.toNat).setResult (BitVec.ofNat 32 (8 + len))) := by
      rw [encodeAt_of_ok hpt hdst]
      rfl

theorem decodeAt_of_ok {src dst : Nat} (hlen : 8 < len) (hdst : dst + (len - 8 + 1) ≤ s.cfg.bufSize)
    (hhdr : hdr.length = 8) (hread : s.bufBytes src len = some (hdr ++ ct)) :
    decodeAt src len dst s = .next (s.decoded hdr ct dst, some (s.plaintext hdr ct)) := by
  obtain ⟨hnonce, hct⟩ := State.bufBytes_append hread
  rw [hhdr] at hnonce hct
  exact (decodeAt_next hlen).mpr ⟨hdr, ct, hnonce, hct, hdst, rfl⟩

theorem exec_decode (hlong : 8 < len) (hlen : len ≤ s.cfg.maxPayload) (hsrc : Fits s s.src len)
    (hdst : Fits s s.dst (len - 8 + 1)) (hhdr : hdr.length = 8) (hread : s.bufBytes s.src.toNat len = some (hdr ++ ct)) :
    exec (.decode len) s = .next ((s.decoded hdr ct s.dst.toNat).setResult (BitVec.ofNat 32 (len - 8) <<< 16)) :=
  calc exec (.decode len) s = andThen (decodeAt s.src.toNat len s.dst.toNat s) _ :=
        guarded_of_ok (by simp [hlen, hsrc.pastBuf, hdst.pastBuf])
    _ = .next ((s.decoded hdr ct s.dst.toNat).setResult (decodeResult len)) := by
      rw [decodeAt_of_ok hlong hdst hhdr hread]
      rfl
    _ = _ := by rw [decodeResult, if_neg (by omega)]

/-- An envelope of 8 bytes or fewer: DECODE reports TooShort and touches nothing else. -/
theorem exec_decode_short (hshort : len ≤ 8) (hlen : len ≤ s.cfg.maxPayload) (hsrc : Fits s s.src len) :
    exec (.decode len) s = .next (s.setResult 0x00000001) :=
  calc exec (.decode len) s = andThen (decodeAt s.src.toNat len s.dst.toNat s) _ :=
        guarded_of_ok (by simp [hlen.not_gt, hsrc.pastBuf, hshort.not_gt])
    _ = .next (s.setResult (decodeResult len)) := by
      rw [decodeAt_short hshort]
      rfl
    _ = _ := by rw [decodeResult, if_pos hshort]

/-- Settles O29: the effect is one store of the envelope, the cipher state after its blocks, and `RESULT`. -/
theorem encodeWritesTheEnvelope : Obligations.EncodeWritesTheEnvelope := by
  refine ⟨fun len s pt hlen hsrc hdst hpt => ?_, fun len s hlen => guarded_of_error (e := .length) (by simp [hlen]),
    fun len s hlen hfits => guarded_of_error (e := .bounds) ?_, reservedBitsRejected_row (.encode 0)⟩
  · have heffect := exec_encode hlen hsrc hdst hpt
    obtain rfl := State.bufBytes_length hpt
    refine ⟨_, s.ciphertext pt, heffect, ?_, ciphertext_xored, (encoded_stored _).setResult _,
      (encoded_sameOutside _).setResult _⟩
    rw [State.encoded_eq]
    rfl
  · by_cases hsrc : Fits s s.src len
    · have hdst : ¬ Fits s s.dst (8 + len) := fun hdst => hfits ⟨hsrc, hdst⟩
      simp [hlen, hsrc.pastBuf, pastBuf_of_not_fits hdst]
    · simp [hlen, pastBuf_of_not_fits hsrc]

/-- Settles O30: the effect is one store of the plaintext and its NUL, the cipher state after its blocks, and `RESULT`; of a
short envelope it is `RESULT` alone. -/
theorem decodeWritesThePlaintext : Obligations.DecodeWritesThePlaintext := by
  refine ⟨fun len s hdr ct hlong hlen hsrc hdst hhdr hread => ?_, fun len s => exec_decode_short,
    fun len s hlen => guarded_of_error (e := .length) (by simp [hlen]),
    fun len s hlen hfits => guarded_of_error (e := .bounds) ?_, reservedBitsRejected_row (.decode 0)⟩
  · have hct : ct.length = len - 8 := by
      have := State.bufBytes_length hread
      rw [List.length_append] at this
      omega
    have heffect := exec_decode hlong hlen hsrc hdst hhdr hread
    rw [← hct] at heffect ⊢
    refine ⟨_, s.plaintext hdr ct, heffect, ?_, plaintext_xored, (decoded_stored _).setResult _,
      (decoded_sameOutside _).setResult _⟩
    rw [State.decoded_eq]
    rfl
  · by_cases hsrc : Fits s s.src len
    · obtain ⟨hlong, hdst⟩ : 8 < len ∧ ¬ Fits s s.dst (len - 8 + 1) :=
        Classical.not_imp.mp fun hdst => hfits ⟨hsrc, hdst⟩
      simp [hlen, hsrc.pastBuf, hlong, pastBuf_of_not_fits hdst]
    · simp [hlen, pastBuf_of_not_fits hsrc]

/-- Settles O31: the envelope is the nonce and the ciphertext under it, and the second engine sets up the same cipher state
from its key and that nonce. -/
theorem decodeUndoesEncode : Obligations.DecodeUndoesEncode := by
  intro s r len pt hpos hlen hsrc hdst hpt hkey hmode hlen' hsrc' hdst'
  have hencode := exec_encode hlen hsrc hdst hpt
  obtain rfl := State.bufBytes_length hpt
  have hstored := encoded_stored (s := s) (pt := pt) s.dst.toNat
  rw [Stored, List.length_append, Vector.length_toList, State.ciphertext_length] at hstored
  refine ⟨_, _, hencode, hstored, fun hcarried => ?_⟩
  have hroom : 8 + pt.length - 8 = pt.length := Nat.add_sub_cancel_left ..
  have hdecode := exec_decode (by omega) hlen' hsrc' (hroom.symm ▸ hdst') (by simp) hcarried
  have hplain := decoded_stored (s := r) (hdr := s.nonce.toList) (ct := s.ciphertext pt) r.dst.toNat
  rw [Stored, State.plaintext_ciphertext pt hkey hmode, List.length_append] at hplain
  rw [hroom] at hdecode
  exact ⟨_, hdecode, hplain, rfl⟩

end Sys2Proof.Claims
end

section
/-! The session controller: what each of its commands does to a state that can take it, and how SES_BYTE, SES_RX and SES_TICK
move the session and the event stream (44_session R230 to R251). -/

namespace Sys2Proof.Machine

variable {s t : State} {b : Byte} {len : Nat}

/-! The fields of a state with a byte appended (44_session R238). -/

@[simp] theorem State.appended_cfg : (s.appended b).cfg = s.cfg := rfl
@[simp] theorem State.appended_key : (s.appended b).key = s.key := rfl
@[simp] theorem State.appended_pskStatus : (s.appended b).pskStatus = s.pskStatus := rfl
@[simp] theorem State.appended_nonce : (s.appended b).nonce = s.nonce := rfl
@[simp] theorem State.appended_session : (s.appended b).session = s.session := rfl
@[simp] theorem State.appended_mode : (s.appended b).mode = s.mode := rfl
@[simp] theorem State.appended_inlen : (s.appended b).inlen = s.inlen + 1 := rfl
@[simp] theorem State.appended_sendPending : (s.appended b).sendPending = s.sendPending := rfl
@[simp] theorem State.appended_events : (s.appended b).events = s.events := rfl

/-! The byte classes (00_scope R18, R19) and the mode switch (44_session R235). -/

@[simp] theorem isPrintable_iff : isPrintable b = true ↔ 0x20 ≤ b ∧ b ≤ 0x7E := decide_eq_true_iff

@[simp] theorem isNewline_iff : isNewline b = true ↔ b = 0x0D ∨ b = 0x0A := decide_eq_true_iff

@[simp] theorem State.switchesMode_iff : s.switchesMode b = true ↔ (b = 0x4D ∨ b = 0x6D) ∧ s.inlen = 0 :=
  decide_eq_true_iff

@[simp] theorem sanitize_length (p : List Byte) : (sanitize p).length = p.length := List.length_map _

theorem sanitize_getD (p : List Byte) {i : Nat} (hi : i < p.length) :
    (sanitize p).getD i 0 = if 0x20 ≤ p.getD i 0 ∧ p.getD i 0 ≤ 0x7E then p.getD i 0 else 0x2E := by
  simp [sanitize, hi]

/-! SES_BYTE, by the state of the session (44_session R232). -/

theorem State.selectMode_eq (m : Mode) (addr : Half) (n : Notice) :
    s.selectMode m addr n =
      { s with
        mode := m, localAddr := addr, session := .operating, events := s.events ++ [.setAddr addr, .notice n] } := by
  simp [State.selectMode, State.emit]

theorem exec_sesByte_modeSelection (hs : s.session = .modeSelection) : exec (.sesByte b) s = .next (modesel b s) :=
  (guarded_of_ok (by simp [hs])).trans (if_pos hs)

theorem exec_sesByte_operating (hs : s.session = .operating) : exec (.sesByte b) s = operatingByte b s :=
  (guarded_of_ok (by simp [hs])).trans (if_neg (by simp [hs]))

theorem operatingByte_switch (hb : (b = 0x4D ∨ b = 0x6D) ∧ s.inlen = 0) : operatingByte b s = .next s.promptMode :=
  if_pos (State.switchesMode_iff.mpr hb)

theorem operatingByte_listener (hb : ¬ ((b = 0x4D ∨ b = 0x6D) ∧ s.inlen = 0)) (hm : s.mode = .listener) :
    operatingByte b s = .next (listenerByte b s) := by
  rw [operatingByte, if_neg (mt State.switchesMode_iff.mp hb), hm]

theorem operatingByte_none (hb : ¬ ((b = 0x4D ∨ b = 0x6D) ∧ s.inlen = 0)) (hm : s.mode = .none) :
    operatingByte b s = .next s := by
  rw [operatingByte, if_neg (mt State.switchesMode_iff.mp hb), hm]

theorem operatingByte_sender (hb : ¬ ((b = 0x4D ∨ b = 0x6D) ∧ s.inlen = 0)) (hm : s.mode = .sender) :
    operatingByte b s = senderByte b s := by
  rw [operatingByte, if_neg (mt State.switchesMode_iff.mp hb), hm]

/-- The append, when BUF has the byte it stores to (44_session R238). -/
theorem senderAppend_of_fits (hfits : s.cfg.inBase + s.inlen.toNat + 1 ≤ s.cfg.bufSize) :
    senderAppend b s =
      if (s.inlen + 1).toNat = s.cfg.incap then flush ((s.appended b).emit (.notice .inputOverflowFlushed))
      else .next (s.appended b) := by
  rw [senderAppend, writeBuf_of_fits (by simpa using hfits)]
  rfl

/-- The submit of a buffer that holds something (44_session R239). -/
theorem senderByte_newline (hb : b = 0x0D ∨ b = 0x0A) (hpos : 0 < s.inlen.toNat) : senderByte b s = flush s := by
  have hp : isPrintable b ≠ true := by rcases hb with rfl | rfl <;> simp
  rw [senderByte, if_neg hp, if_pos (isNewline_iff.mpr hb), senderSubmit, if_pos (.inl hpos)]

/-! The flush (44_session R240). -/

theorem flush_aborted (hpsk : s.pskStatus ≠ .valid) :
    flush s = .next (State.emit (.notice .pskNotValid) { s with inlen := 0 }) := if_pos hpsk

theorem flush_suppressed (hpsk : s.pskStatus = .valid) (hpending : s.sendPending = true) :
    flush s = .next (State.emit (.notice .sendSuppressed) { s with inlen := 0 }) :=
  (if_neg (not_not_intro hpsk)).trans (if_pos hpending)

theorem flush_sent {pt : List Byte} (hpsk : s.pskStatus = .valid) (hpending : s.sendPending = false)
    (hpt : s.bufBytes s.cfg.inBase s.inlen.toNat = some pt)
    (hfits : s.cfg.txBase + (8 + s.inlen.toNat) ≤ s.cfg.bufSize) :
    flush s = .next ((s.encoded pt s.cfg.txBase).sent s.inlen.toNat) := by
  rw [flush, if_neg (not_not_intro hpsk), if_neg (by simp [hpending]), encodeAt_of_ok hpt hfits]
  rfl

/-! The input buffer, and the room a state with the invariant has for it (10_state R40). -/

/-- The input buffer after an append holds the byte after what it held. -/
theorem State.bufBytes_appended {pt : List Byte} (hsucc : (s.inlen + 1).toNat = s.inlen.toNat + 1)
    (hpt : s.bufBytes s.cfg.inBase s.inlen.toNat = some pt) :
    (s.appended b).bufBytes s.cfg.inBase (s.appended b).inlen.toNat = some (pt ++ [b]) := by
  obtain ⟨hlen, hread⟩ := State.bufBytes_eq_some.mp hpt
  have hput : ∀ i, (s.appended b).bufByte (s.cfg.inBase + i) =
      (s.putBuf (s.cfg.inBase + s.inlen.toNat) [b]).bufByte (s.cfg.inBase + i) := fun _ => rfl
  obtain ⟨-, hnew⟩ := State.bufBytes_eq_some.mp (s.bufBytes_putBuf (s.cfg.inBase + s.inlen.toNat) [b])
  refine State.bufBytes_eq_some.mpr ⟨?_, fun i hi => ?_⟩
  · rw [List.length_append, hlen]
    exact hsucc.symm
  · rw [hput]
    rcases Nat.lt_or_eq_of_le (Nat.le_of_lt_succ (hsucc ▸ hi)) with hi | rfl
    · rw [State.bufByte_putBuf_outside (.inl (by omega)), hread i hi, List.getElem?_append_left (hlen ▸ hi)]
    · rw [← hlen] at hnew ⊢
      simpa using hnew 0 Nat.one_pos

theorem State.Inv.input_read (hi : s.Inv) : ∃ pt, s.bufBytes s.cfg.inBase s.inlen.toNat = some pt :=
  State.bufBytes_isSome hi.input_written

/-- The TX region has room for the envelope of the input buffer, one byte longer than it is (00_scope R9, R10). -/
theorem State.Inv.envelope_fits (hi : s.Inv) : s.cfg.txBase + (8 + (s.inlen.toNat + 1)) ≤ s.cfg.bufSize := by
  have hlt := hi.inlen_lt
  obtain ⟨-, -, -, hcap, -⟩ := hi.cfg_ok
  unfold Config.txBase Config.bufSize
  omega

theorem State.Inv.append_fits (hi : s.Inv) : s.cfg.inBase + s.inlen.toNat + 1 ≤ s.cfg.bufSize := by
  have hlt := hi.inlen_lt
  obtain ⟨-, -, -, hcap, -⟩ := hi.cfg_ok
  unfold Config.inBase Config.bufSize
  omega

/-! What SES_BYTE leaves alone, and what a flush emits. -/

/-- Outside Initial SES_BYTE raises no error (44_session R233). -/
theorem ByteEffect.errors_kept (h : ByteEffect b s t) (hs : s.session ≠ .initial) :
    t.err = s.err ∧ t.errinfo = s.errinfo := by
  cases h with
  | error e h0 h => exact absurd h0 hs
  | overflow h0 hfits hfull h => rw [h.eq]; exact ⟨rfl, rfl⟩
  | submit h0 h => rw [h.eq]; exact ⟨rfl, rfl⟩
  | same h => subst h; exact ⟨rfl, rfl⟩
  | sender _ _ h | listener _ _ h | invalid h | prompt _ _ h | redisplay h | appended _ _ _ h =>
    rw [h]; exact ⟨rfl, rfl⟩

/-- A flush emits one event: a notice or the send (44_session R240). -/
theorem Flushed.events (h : Flushed s t) :
    ∃ e, t.events = s.events ++ [e] ∧
      (e = .notice .pskNotValid ∨ e = .notice .sendSuppressed ∨ ∃ dest sep dep opt len, e = .send dest sep dep opt len) := by
  cases h with
  | aborted h => exact ⟨_, by rw [h]; rfl, .inl rfl⟩
  | suppressed h => exact ⟨_, by rw [h]; rfl, .inr (.inl rfl)⟩
  | sent pt hpsk hpending hread hfits h =>
    exact ⟨_, by rw [h, State.sent_eq, State.encoded_eq], .inr (.inr ⟨_, _, _, _, _, rfl⟩)⟩

/-! SES_RX (44_session R245). -/

theorem State.handlesFrames_iff :
    s.handlesFrames = true ↔ (s.session = .operating ∧ s.mode = .listener) ∨ s.cfg.rxPolicy = .process :=
  decide_eq_true_iff

theorem exec_sesRx_dropped (hs : s.session ≠ .initial) (hlen : len ≤ s.cfg.maxPayload) (hf : s.handlesFrames ≠ true) :
    exec (.sesRx len) s = .next (s.setResult 0) :=
  (guarded_of_ok (by simp [hs, hlen])).trans (if_neg hf)

theorem exec_sesRx_handled (hs : s.session ≠ .initial) (hlen : len ≤ s.cfg.maxPayload) (hf : s.handlesFrames = true) :
    exec (.sesRx len) s = receive len (s.setResult 1) :=
  (guarded_of_ok (by simp [hs, hlen])).trans (if_pos hf)

theorem receive_short (hlen : len ≤ 8) : receive len s = .next (s.emit (.notice .frameTooShort)) := if_pos hlen

end Sys2Proof.Machine

namespace Sys2Proof.Claims

open Sys2Proof.Machine

variable {s t : State} {b : Byte} {i : Instr} {len : Nat}

/-! The flush and the Sender's byte, completed under what the invariant gives (44_session R237 to R240). -/

/-- A flush completes when the input buffer reads and its envelope has room. -/
theorem flush_gives {pt : List Byte} (hpt : s.bufBytes s.cfg.inBase s.inlen.toNat = some pt)
    (hfits : s.cfg.txBase + (8 + s.inlen.toNat) ≤ s.cfg.bufSize) : ∃ t, flush s = .next t ∧ FlushGives s t := by
  by_cases hpsk : s.pskStatus = .valid
  · cases hpending : s.sendPending with
    | true =>
      refine ⟨_, flush_suppressed hpsk hpending, ?_⟩
      rw [FlushGives, if_neg (not_not_intro hpsk), if_pos hpending]
      rfl
    | false =>
      have hlen := State.bufBytes_length hpt
      have hsame := encoded_sameOutside (s := s) (pt := pt) s.cfg.txBase
      rw [hlen] at hsame
      refine ⟨_, flush_sent hpsk hpending hpt hfits, ?_⟩
      rw [FlushGives, if_neg (not_not_intro hpsk), if_neg (by simp [hpending])]
      refine ⟨pt, s.ciphertext pt, hpt, ciphertext_xored, ?_, value_incNonce s, encoded_stored _, hsame⟩
      rw [State.sent_eq, State.encoded_eq, hlen]
      rfl
  · refine ⟨_, flush_aborted hpsk, ?_⟩
    rw [FlushGives, if_pos hpsk]
    rfl

/-- A byte as Sender, mode switch or not, completes: there is room for the append and for the envelope. -/
theorem senderByte_gives (hi : s.Inv) : ∃ t, senderByte b s = .next t ∧ SenderByteGives b s t := by
  obtain ⟨pt, hpt⟩ := hi.input_read
  have hroom := hi.envelope_fits
  unfold senderByte SenderByteGives
  simp only [isPrintable_iff, isNewline_iff]
  split
  · obtain ⟨hstored, hsame⟩ := putBuf_stored (s := s) (a := s.cfg.inBase + s.inlen.toNat) (bytes := [b])
    rw [senderAppend_of_fits hi.append_fits, ← hi.inlen_succ]
    by_cases hfull : (s.inlen + 1).toNat = s.cfg.incap
    · rw [← hi.inlen_succ] at hroom
      obtain ⟨t, ht, hgives⟩ := flush_gives (s := (s.appended b).emit (.notice .inputOverflowFlushed))
        (State.bufBytes_appended hi.inlen_succ hpt) hroom
      exact ⟨t, (if_pos hfull).trans ht, s.appended b, rfl, hstored, hsame, (if_pos hfull).mpr hgives⟩
    · exact ⟨_, if_neg hfull, s.appended b, rfl, hstored, hsame, (if_neg hfull).mpr rfl⟩
  · split
    · unfold senderSubmit
      split
      · exact flush_gives hpt (by omega)
      · exact ⟨s, rfl, rfl⟩
    · exact ⟨s, rfl, rfl⟩

/-- Settles O34: the invariant gives the append and the envelope their room and the flush its input. -/
theorem senderByteAppendsAndFlushes : Obligations.SenderByteAppendsAndFlushes := by
  intro b s hi hs hm hb
  rw [exec_sesByte_operating hs, operatingByte_sender hb hm]
  exact senderByte_gives hi

/-! Typing as Sender (44_session R241). -/

/-- A flush with a valid key and no send pending is one send: its envelope is the old nonce and the ciphertext of the input
buffer. -/
theorem flush_sends {pt : List Byte} (hpsk : s.pskStatus = .valid) (hpending : s.sendPending = false)
    (hpt : s.bufBytes s.cfg.inBase s.inlen.toNat = some pt)
    (hfits : s.cfg.txBase + (8 + s.inlen.toNat) ≤ s.cfg.bufSize) :
    ∃ t ct, flush s = .next t ∧
      t.events = s.events ++
        [.send s.cfg.listenerAddr s.cfg.srcEp s.cfg.dstEp s.cfg.txOptions (BitVec.ofNat 16 (8 + pt.length))] ∧
      t.inlen = 0 ∧ t.txlen = BitVec.ofNat 16 (8 + pt.length) ∧ t.sendPending = true ∧
      value t.nonce.toList = (value s.nonce.toList + 1) % 2 ^ 64 ∧
      Xored s.cfg.ctrMode (messageWords s.key.toList s.nonce.toList) pt ct ∧
      t.bufBytes s.cfg.txBase (8 + pt.length) = some (s.nonce.toList ++ ct) := by
  have hflush := flush_sent hpsk hpending hpt hfits
  have hstored := encoded_stored (s := s) (pt := pt) s.cfg.txBase
  rw [Stored, List.length_append, Vector.length_toList, State.ciphertext_length] at hstored
  rw [← State.bufBytes_length hpt, State.sent_eq] at hflush
  refine ⟨_, s.ciphertext pt, hflush, ?_, rfl, rfl, rfl, value_incNonce s, ciphertext_xored, hstored⟩
  rw [State.encoded_eq]

/-- A printable byte that does not fill the buffer is appended, and no more. -/
theorem exec_sesByte_append (hi : s.Inv) (hs : s.session = .operating) (hm : s.mode = .sender)
    (hb : ¬ ((b = 0x4D ∨ b = 0x6D) ∧ s.inlen = 0)) (hp : 0x20 ≤ b ∧ b ≤ 0x7E) (hroom : s.inlen.toNat + 1 < s.cfg.incap) :
    exec (.sesByte b) s = .next (s.appended b) := by
  rw [exec_sesByte_operating hs, operatingByte_sender hb hm, senderByte, if_pos (isPrintable_iff.mpr hp),
    senderAppend_of_fits hi.append_fits, hi.inlen_succ, if_neg hroom.ne]

theorem exec_sesByte_submit (hs : s.session = .operating) (hm : s.mode = .sender) (hb : b = 0x0D ∨ b = 0x0A)
    (hpos : 0 < s.inlen.toNat) : exec (.sesByte b) s = flush s := by
  have hswitch : ¬ ((b = 0x4D ∨ b = 0x6D) ∧ s.inlen = 0) := by rcases hb with rfl | rfl <;> simp
  rw [exec_sesByte_operating hs, operatingByte_sender hswitch hm, senderByte_newline hb hpos]

/-- Settles O35: two appends and a submit, whose flush finds the key valid and no send pending. -/
theorem typingHiSendsOneEnvelope : Obligations.TypingHiSendsOneEnvelope := by
  intro s hi hs hm hempty hpsk hpending hcap
  have hnone : s.bufBytes s.cfg.inBase s.inlen.toNat = some [] := by rw [hempty]; rfl
  have hH := exec_sesByte_append (b := 0x48) hi hs hm (by simp) (by decide) (by simp [hempty]; omega)
  have hi1 := exec_inv hi hH
  have hone := State.bufBytes_appended (b := 0x48) hi.inlen_succ hnone
  have hI := exec_sesByte_append (b := 0x49) hi1 (by simp [hs]) (by simp [hm]) (by simp) (by decide)
    (by simpa [hempty] using hcap)
  have hi2 := exec_inv hi1 hI
  have htwo := State.bufBytes_appended (b := 0x49) hi1.inlen_succ hone
  have hlen : ((s.appended 0x48).appended 0x49).inlen.toNat = 2 := by simp [hempty]
  have hroom := hi2.envelope_fits
  obtain ⟨s3, ct, hflush, hsend⟩ :=
    flush_sends (s := (s.appended 0x48).appended 0x49) (by simp [hpsk]) (by simp [hpending]) htwo (by omega)
  have hCR := exec_sesByte_submit (s := (s.appended 0x48).appended 0x49) (b := 0x0D) (by simp [hs]) (by simp [hm])
    (.inl rfl) (by omega)
  simp only [State.appended_cfg, State.appended_key, State.appended_nonce, State.appended_events] at hsend
  exact ⟨_, _, s3, ct, hH, hI, hCR.trans hflush, hsend⟩

/-- Settles O36: each session state and each mode has its completing arm, and the invariant ties `SESSION` to the reset
sequence. -/
theorem sesByteAlwaysCompletes : Obligations.SesByteAlwaysCompletes := by
  intro b s hi hboot
  have hs : s.session ≠ .initial := fun h => absurd (hi.boot_session.mpr h) (by simp [hboot])
  obtain ⟨t, ht⟩ : ∃ t, exec (.sesByte b) s = .next t := by
    cases hsession : s.session with
    | initial => exact absurd hsession hs
    | modeSelection => exact ⟨_, exec_sesByte_modeSelection hsession⟩
    | operating =>
      rw [exec_sesByte_operating hsession]
      by_cases hb : (b = 0x4D ∨ b = 0x6D) ∧ s.inlen = 0
      · exact ⟨_, operatingByte_switch hb⟩
      · cases hm : s.mode with
        | none => exact ⟨_, operatingByte_none hb hm⟩
        | listener => exact ⟨_, operatingByte_listener hb hm⟩
        | sender =>
          rw [operatingByte_sender hb hm]
          exact (senderByte_gives hi).imp fun _ => And.left
  obtain ⟨herr, herrinfo⟩ := (execSesByte_effect ht).errors_kept hs
  refine ⟨t, ht, herr, herrinfo, fun h => ?_⟩
  have hpending := (exec_inv hi ht).boot_session.mpr h
  rw [exec_bootPending ht, hboot] at hpending
  cases hpending

/-! The receive path (44_session R245 to R247). -/

/-- A frame that reads decrypts into the room the PT region has for it. -/
theorem receive_of_ok {hdr ct : List Byte} (hlong : 8 < len) (hfits : s.cfg.ptBase + (len - 8 + 1) ≤ s.cfg.bufSize)
    (hhdr : hdr.length = 8) (hread : s.bufBytes s.cfg.rxBase len = some (hdr ++ ct)) :
    receive len s = .next ((s.decoded hdr ct s.cfg.ptBase).received hdr (s.plaintext hdr ct) len) := by
  obtain ⟨hnonce, -⟩ := State.bufBytes_append hread
  rw [hhdr] at hnonce
  rw [receive, if_neg (by omega), withBuf_of_some hnonce, decodeAt_of_ok hlong hfits hhdr hread]
  rfl

/-- Settles O38: the receive path is one store, the cipher state after its blocks, the sanitised display and a resync. -/
theorem sesRxDecryptsAndResyncs : Obligations.SesRxDecryptsAndResyncs := by
  intro len s hdr ct hs hlong hlen hf hhdr hread
  have hct : ct.length = len - 8 := by
    have := State.bufBytes_length hread
    rw [List.length_append] at this
    omega
  have hfits : s.cfg.ptBase + (len - 8 + 1) ≤ s.cfg.bufSize := by
    unfold Config.ptBase Config.bufSize
    omega
  have heffect := (exec_sesRx_handled hs hlen (State.handlesFrames_iff.mpr hf)).trans
    (receive_of_ok (s := s.setResult 1) hlong hfits hhdr hread)
  rw [State.received_eq] at heffect
  have hstored := decoded_stored (s := s.setResult 1) (hdr := hdr) (ct := ct) s.cfg.ptBase
  have hsame := decoded_sameOutside (s := s.setResult 1) (hdr := hdr) (ct := ct) s.cfg.ptBase
  rw [hct] at hsame
  refine ⟨_, (s.setResult 1).plaintext hdr ct, sanitize ((s.setResult 1).plaintext hdr ct), heffect, ?_, plaintext_xored,
    hstored, hsame, sanitize_length _, fun i hi => sanitize_getD _ hi, fun hgreater => ?_, fun hgreater => ?_⟩
  · rw [State.decoded_eq, hct]
    rfl
  · exact value_resync_of_greater hhdr hgreater
  · have hkept := resync_of_not_greater (s := (s.setResult 1).decoded hdr ct s.cfg.ptBase) hhdr hgreater
    exact (congrArg State.nonce hkept :)

/-! The session's edges (44_session R230). -/

theorem exec_session_kept (h : exec i s = .next t) (hbyte : ∀ b, i ≠ .sesByte b) (htick : i ≠ .sesTick) :
    t.session = s.session := by
  obtain ⟨-, -, -, -, hsession, -⟩ := onlyTheListedWriters i s t h
  exact hsession hbyte htick

/-- Settles O41: no frame but those of SES_BYTE and SES_TICK has `SESSION` in it, and these two write it in their listed
cases. -/
theorem onlyTheListedSessionEdges : Obligations.OnlyTheListedSessionEdges := by
  intro i s t h
  cases i with
  | sesByte b =>
    cases execSesByte_effect h with
    | sender hs hb ht => subst hb ht; exact .inr (.inl ⟨hs, rfl, .inl ⟨rfl, rfl⟩⟩)
    | listener hs hb ht => subst hb ht; exact .inr (.inl ⟨hs, rfl, .inr ⟨rfl, rfl⟩⟩)
    | prompt hs hb h =>
      subst h
      exact .inr (.inr ⟨hs, rfl, rfl, .inl (hb.imp_left (Or.imp (congrArg _) (congrArg _)))⟩)
    | overflow hs hfits hfull h => exact .inl (by rw [h.eq]; rfl)
    | submit hs h => exact .inl (by rw [h.eq])
    | same h => exact .inl (by rw [h])
    | error _ _ h | invalid h | redisplay h | appended _ _ _ h => exact .inl (by rw [h]; rfl)
  | sesTick =>
    rcases execSesTick_next h with ⟨e, rfl⟩ | rfl | ⟨hs, hm, rfl⟩
    · exact .inl rfl
    · exact .inl rfl
    · exact .inr (.inr ⟨hs, rfl, rfl, .inr ⟨rfl, hm⟩⟩)
  | _ => exact .inl (exec_session_kept h nofun nofun)

/-! The event stream (44_session R231, 30_encoding R125). -/

/-- `t` has the events of `s` and then new ones, each one that `i` may emit. -/
def Emits (i : Instr) (s t : State) : Prop := ∃ new, t.events = s.events ++ new ∧ ∀ e ∈ new, mayEmit i e

theorem Emits.nothing (h : t.events = s.events) : Emits i s t := ⟨[], by simpa using h, by simp⟩

theorem Emits.one {e : Event} (h : t.events = s.events ++ [e]) (he : mayEmit i e) : Emits i s t :=
  ⟨[e], h, by simpa using he⟩

theorem Emits.trans {u : State} (hu : Emits i s u) (ht : Emits i u t) : Emits i s t := by
  obtain ⟨before, hbefore, hmay⟩ := hu
  obtain ⟨after, hafter, hmay'⟩ := ht
  refine ⟨before ++ after, by rw [hafter, hbefore, List.append_assoc], fun e he => ?_⟩
  exact (List.mem_append.mp he).elim (hmay e) (hmay' e)

theorem flushed_emits (h : Flushed s t) : Emits (.sesByte b) s t := by
  obtain ⟨e, he, rfl | rfl | ⟨dest, sep, dep, opt, len, rfl⟩⟩ := h.events
  all_goals exact .one he (by simp [mayEmit])

theorem byteEffect_emits (h : ByteEffect b s t) : Emits (.sesByte b) s t := by
  cases h with
  | error e hs h => subst h; exact .nothing rfl
  | sender hs hb h =>
    subst h
    exact .trans (u := s.emit (.setAddr s.cfg.senderAddr)) (.one rfl trivial) (.one rfl (by simp [mayEmit]))
  | listener hs hb h =>
    subst h
    exact .trans (u := s.emit (.setAddr s.cfg.listenerAddr)) (.one rfl trivial) (.one rfl (by simp [mayEmit]))
  | same h => subst h; exact .nothing rfl
  | invalid h => subst h; exact .one rfl (by simp [mayEmit])
  | prompt hs hb h => subst h; exact .one rfl (by simp [mayEmit])
  | redisplay h => subst h; exact .one rfl (by simp [mayEmit])
  | appended hs hfits hroom h => subst h; exact .nothing rfl
  | overflow hs hfits hfull h => exact .trans (.one rfl (by simp [mayEmit])) (flushed_emits h)
  | submit hs h => exact flushed_emits h

theorem receive_emits (h : receive len s = .next t) : Emits (.sesRx len) s t := by
  rcases receive_next h with ⟨-, rfl⟩ | ⟨-, hdr, ct, -, -, -, rfl⟩
  · exact .one rfl (by simp [mayEmit])
  · refine ⟨_, by rw [State.received_eq, State.decoded_eq], ?_⟩
    simp [mayEmit]

/-- Settles O42: the three commands with events append those they may emit, and no other frame has the event stream in it. -/
theorem eventsAreAppendedByTheirCommands : Obligations.EventsAreAppendedByTheirCommands := by
  intro i s t h
  rcases exec_framed h with ⟨e, rfl⟩ | hframe
  · exact Emits.nothing rfl
  cases i with
  | sesByte b => exact byteEffect_emits (execSesByte_effect h)
  | sesRx len =>
    rcases execSesRx_next h with ⟨e, rfl⟩ | ⟨-, -, ⟨-, rfl⟩ | ⟨-, h⟩⟩
    · exact Emits.nothing rfl
    · exact Emits.nothing rfl
    · exact Emits.trans (u := s.setResult (boolResult true)) (.nothing rfl) (receive_emits h)
  | sesTick =>
    rcases execSesTick_next h with ⟨e, rfl⟩ | rfl | ⟨-, -, rfl⟩
    · exact Emits.nothing rfl
    · exact Emits.nothing rfl
    · exact Emits.one rfl rfl
  | nonceInc sel => cases sel <;> (dsimp only at hframe; exact Emits.nothing (by rw [hframe]))
  | _ => dsimp only at hframe; exact Emits.nothing (by rw [hframe])

/-- Settles O32: the four arms of the mode selection, each written out. -/
theorem modeSelectionByte : Obligations.ModeSelectionByte := by
  intro b s hs
  rw [exec_sesByte_modeSelection hs, modesel, State.selectMode_eq, State.selectMode_eq]
  simp only [isNewline_iff]
  rfl

/-- Settles O33: the mode switch comes first; a Listener redisplays or ignores, and without a mode every byte is ignored. -/
theorem operatingByteOutsideSender : Obligations.OperatingByteOutsideSender := by
  intro b s hs
  rw [exec_sesByte_operating hs]
  split
  · next hb => exact operatingByte_switch hb
  · next hb =>
    refine ⟨fun hm => ?_, operatingByte_none hb⟩
    rw [operatingByte_listener hb hm]
    simp only [listenerByte, isNewline_iff]
    rfl

/-- Settles O37: the length check, then the policy, then the short frame, whose path reads no BUF. -/
theorem sesRxWithoutDecryption : Obligations.SesRxWithoutDecryption := by
  intro len s hs
  split
  · next hlen => exact guarded_of_error (e := .length) (by simp [hs, hlen])
  · next hlen =>
    have hle := Nat.le_of_not_lt hlen
    split
    · next hdrop => exact exec_sesRx_dropped hs hle (by simp [State.handlesFrames_iff, hdrop])
    · next hdrop =>
      intro hshort
      have hf : s.handlesFrames = true := by
        rw [State.handlesFrames_iff]
        cases hp : s.cfg.rxPolicy with
        | process => exact .inr rfl
        | drop => exact .inl (not_not.mp fun hno => hdrop ⟨hno, hp⟩)
      rw [exec_sesRx_handled hs hle hf, receive_short hshort]
      rfl

/-- Settles O39: the one check is of the session, and the effect is that of R248. -/
theorem sesConfirmEndsThePendingSend : Obligations.SesConfirmEndsThePendingSend :=
  ⟨fun _ _ hs => guarded_of_ok (by simp [hs]), fun _ _ hs => guarded_of_error (e := .state) (by simp [hs]),
    reservedBitsRejected_row (.sesConfirm .ok)⟩

/-- Settles O40: the one check is of the session, and the effect is that of R250. -/
theorem sesTickRecovers : Obligations.SesTickRecovers :=
  ⟨fun _ hs => guarded_of_ok (by simp [hs]), fun _ hs => guarded_of_error (e := .state) (by simp [hs]),
    reservedBitsRejected_row .sesTick⟩

end Sys2Proof.Claims
end

section
/-! The engine's step: the error a command word raises, what the step changes then, and what it leaves of `ERR` and `ERRINFO`
when the word raises none (60_exceptions R280 to R283). -/

namespace Sys2Proof.Machine

variable {α : Type} {s t : State}

/-! A write of `CMD` (10_state R48, 20_memory R93). -/

theorem State.access_writeCmd (s : State) (v : Word) :
    s.access (.write .word 0x00000 v) =
      { s.writeReg .cmd v with reply := some .done, freeCtr := s.freeCtr + 1 } := by
  have heffect : s.writeEffect .word 0x00000 v = s.writeReg .cmd v := s.writeEffect_reg .cmd v
  unfold State.access
  dsimp only
  rw [heffect]
  rfl

theorem State.access_writeCmd_idle (h : s.busy = false) (v : Word) :
    s.access (.write .word 0x00000 v) =
      { s with cmdLatch := v, busy := true, reply := some .done, freeCtr := s.freeCtr + 1 } := by
  have hissue : s.writeReg .cmd v = s.issue v := if_neg (by simp [h])
  rw [State.access_writeCmd, hissue]
  rfl

theorem State.access_writeCmd_busy (h : s.busy = true) (v : Word) :
    s.access (.write .word 0x00000 v) =
      { s with ovr := true, reply := some .done, freeCtr := s.freeCtr + 1 } := by
  have hdrop : s.writeReg .cmd v = s.dropWrite := if_pos h
  rw [State.access_writeCmd, hdrop]
  rfl

/-! The engine's step, by what the latched word decodes to (60_exceptions R280). -/

theorem engineTurn_command (hbusy : s.busy = true) (hboot : s.bootPending = false) : engineTurn s = engineStep s := by
  unfold engineTurn
  rw [if_pos hbusy, if_neg (by simp [hboot])]

theorem engineStep_of_ok {i : Instr} (h : decode s.cmdLatch = .ok i) :
    engineStep s = andThen (exec i s) fun t => .next t.complete := by
  unfold engineStep
  rw [h]

theorem engineStep_of_error {e : CmdErr} (h : decode s.cmdLatch = .error e) :
    engineStep s = .next (s.takeError (opField s.cmdLatch) e).complete := by
  unfold engineStep
  rw [h]

/-! Effects that leave `ERR` and `ERRINFO` as they were: each is composed of reads and stores that do. -/

/-- Where `x` answers a next state, `ERR` and `ERRINFO` are those of `s`. -/
def KeepsErrors (s : State) (x : Result) : Prop := ∀ t, x = .next t → t.err = s.err ∧ t.errinfo = s.errinfo

theorem keepsErrors_next (h : t.err = s.err ∧ t.errinfo = s.errinfo) : KeepsErrors s (.next t) := by
  rintro _ ⟨⟩
  exact h

theorem keepsErrors_andThen {x : Answer α} {f : α → Result} (h : ∀ a, x = .next a → KeepsErrors s (f a)) :
    KeepsErrors s (andThen x f) := fun t ht => by
  obtain ⟨a, hx, hf⟩ := andThen_next.mp ht
  exact h a hx t hf

theorem keepsErrors_withBuf {u : State} {a n : Nat} {use : List Byte → Result} (h : ∀ bytes, KeepsErrors s (use bytes)) :
    KeepsErrors s (withBuf u a n use) := fun t ht => by
  obtain ⟨bytes, -, huse⟩ := withBuf_next.mp ht
  exact h bytes t huse

theorem keepsErrors_withKey {sel : KeySel} {use : List Byte → Result} (h : ∀ key, KeepsErrors s (use key)) :
    KeepsErrors s (withKey sel s use) := fun t ht => by
  obtain ⟨key, -, huse⟩ := withKey_next.mp ht
  exact h key t huse

theorem keepsErrors_withNonce {sel : NonceSel} {offset : Half} {use : List Byte → Result}
    (h : ∀ n, KeepsErrors s (use n)) : KeepsErrors s (withNonce sel offset s use) := fun t ht => by
  obtain ⟨n, -, huse⟩ := withNonce_next.mp ht
  exact h n t huse

theorem keepsErrors_writeBuf {a : Nat} {bytes : List Byte} : KeepsErrors s (writeBuf a bytes s) := fun t ht => by
  obtain ⟨-, rfl⟩ := writeBuf_next.mp ht
  exact ⟨rfl, rfl⟩

theorem decodeAt_errors {src n dst : Nat} {r : State × Option (List Byte)} (h : decodeAt src n dst s = .next r) :
    r.1.err = s.err ∧ r.1.errinfo = s.errinfo := by
  by_cases hn : n ≤ 8
  · rw [decodeAt_short hn] at h
    cases h
    exact ⟨rfl, rfl⟩
  · obtain ⟨hdr, ct, -, -, -, rfl⟩ := (decodeAt_next (Nat.not_le.mp hn)).mp h
    rw [State.decoded_eq]
    exact ⟨rfl, rfl⟩

theorem keepsErrors_receive {len : Nat} : KeepsErrors s (receive len s) := fun t ht => by
  rcases receive_next ht with ⟨-, rfl⟩ | ⟨-, hdr, ct, -, -, -, rfl⟩
  · exact ⟨rfl, rfl⟩
  · rw [State.received_eq, State.decoded_eq]
    exact ⟨rfl, rfl⟩

end Sys2Proof.Machine

namespace Sys2Proof.Claims

open Sys2Proof.Machine

variable {i : Instr} {s : State} {e : CmdErr} {w : Word}

/-! The error a command raises, and the error a word raises (60_exceptions R282). -/

/-- A command is its checks and then its effect, whichever effect that is. -/
theorem exec_eq_guarded (i : Instr) (s : State) : ∃ run, exec i s = guarded i.opcode (commandChecks i s) s run := by
  cases i <;> exact ⟨_, rfl⟩

theorem exec_of_commandError (h : commandError i s = some e) : exec i s = .next (s.takeError i.opcode e) := by
  obtain ⟨run, hrun⟩ := exec_eq_guarded i s
  exact hrun.trans (guarded_of_error ((firstError_commandChecks i s).trans h))

/-- A command none of whose checks fails leaves `ERR` and `ERRINFO` as they were, since its effect does. -/
theorem exec_keepsErrors (h : commandError i s = none) : KeepsErrors s (exec i s) := by
  have effect {op : Byte} {run : Result} (hrun : KeepsErrors s run) :
      KeepsErrors s (guarded op (commandChecks i s) s run) :=
    (guarded_of_ok ((firstError_commandChecks i s).trans h)).symm ▸ hrun
  cases i with
  | nop | ksLoad => exact keepsErrors_next ⟨rfl, rfl⟩
  | keysetup sel => exact effect (keepsErrors_withKey fun _ => keepsErrors_next ⟨rfl, rfl⟩)
  | ivsetup sel => exact effect (keepsErrors_withNonce fun _ => keepsErrors_next ⟨rfl, rfl⟩)
  | genblock => exact effect keepsErrors_writeBuf
  | xcrypt len =>
    refine effect (keepsErrors_withBuf fun input => keepsErrors_andThen fun u hu => ?_)
    exact keepsErrors_next (keepsErrors_writeBuf u hu)
  | ksVerify => exact effect (keepsErrors_withBuf fun _ => keepsErrors_next ⟨rfl, rfl⟩)
  | ksStore => exact effect (keepsErrors_next (by rw [State.storeSeq_eq]; exact ⟨rfl, rfl⟩))
  | ksInitdef => exact effect (keepsErrors_next (by rw [State.initDefault_eq]; exact ⟨rfl, rfl⟩))
  | nonceInc sel =>
    refine effect ?_
    cases sel with
    | nonce => exact keepsErrors_next ⟨rfl, rfl⟩
    | buf => exact keepsErrors_withBuf fun _ => keepsErrors_writeBuf
  | nonceCmp sel =>
    exact effect (keepsErrors_withBuf fun _ => keepsErrors_withNonce fun _ => keepsErrors_next ⟨rfl, rfl⟩)
  | resync =>
    exact effect (keepsErrors_withBuf fun _ => keepsErrors_next (by rw [State.resync_eq]; exact ⟨rfl, rfl⟩))
  | encode len =>
    refine effect (keepsErrors_andThen fun u hu => keepsErrors_next ?_)
    obtain ⟨pt, -, -, rfl⟩ := encodeAt_next.mp hu
    rw [State.encoded_eq]
    exact ⟨rfl, rfl⟩
  | decode len => exact effect (keepsErrors_andThen fun r hr => keepsErrors_next (decodeAt_errors hr))
  | sesByte b =>
    have hs : s.session ≠ .initial := fun hs => by simp [commandError, stateRefused, hs] at h
    exact fun t ht => (execSesByte_effect ht).errors_kept hs
  | sesRx len =>
    refine effect ?_
    by_cases hf : s.handlesFrames
    · rw [if_pos hf]
      exact keepsErrors_receive (s := s.setResult _)
    · rw [if_neg hf]
      exact keepsErrors_next ⟨rfl, rfl⟩
  | sesConfirm c => exact effect (keepsErrors_next (by split <;> exact ⟨rfl, rfl⟩))
  | sesTick => exact effect (keepsErrors_next (by split <;> exact ⟨rfl, rfl⟩))

theorem wordError_of_ok (h : decode w = .ok i) : wordError w s = commandError i s := by
  obtain ⟨-, hop, -, -⟩ := decode_fields h
  unfold wordError
  rw [if_neg (not_not_intro (hop ▸ opcode_mem i)), if_neg (not_not_intro (matchesARow_iff.mpr ⟨i, h⟩)), h]

theorem wordError_of_error (h : decode w = .error e) : wordError w s = some e := by
  have hrow : ¬ matchesARow w := by simp [matchesARow_iff, h]
  unfold wordError
  rcases decode_error h with ⟨hop, rfl⟩ | ⟨hop, rfl⟩
  · rw [if_neg (not_not_intro hop), if_pos hrow]
  · rw [if_pos hop]

/-! The engine's step on a word that raises an error, and on one that raises none. -/

theorem engineStep_of_wordError (h : wordError s.cmdLatch s = some e) :
    engineStep s = .next (s.takeError (opField s.cmdLatch) e).complete := by
  cases hdec : decode s.cmdLatch with
  | ok i =>
    obtain ⟨-, hop, -, -⟩ := decode_fields hdec
    rw [engineStep_of_ok hdec, exec_of_commandError ((wordError_of_ok hdec).symm.trans h), hop, andThen_next_left]
  | error e' =>
    obtain rfl : e' = e := Option.some.inj ((wordError_of_error hdec).symm.trans h)
    exact engineStep_of_error hdec

theorem engineStep_keepsErrors (h : wordError s.cmdLatch s = none) : KeepsErrors s (engineStep s) := by
  cases hdec : decode s.cmdLatch with
  | ok i =>
    rw [engineStep_of_ok hdec]
    have heffect := exec_keepsErrors ((wordError_of_ok hdec).symm.trans h)
    exact keepsErrors_andThen fun u hu => keepsErrors_next (heffect u hu)
  | error e => cases (wordError_of_error hdec).symm.trans h

theorem engineStep_busy {t : State} (h : engineStep s = .next t) : t.busy = false := by
  cases hdec : decode s.cmdLatch with
  | ok i =>
    rw [engineStep_of_ok hdec] at h
    obtain ⟨u, -, ⟨⟩⟩ := andThen_next.mp h
    rfl
  | error e =>
    rw [engineStep_of_error hdec] at h
    cases h
    rfl

/-- Whose turn it is is no part of what raises an error (60_exceptions R282; log 5). -/
theorem wordError_withTurns (w : Word) (s : State) (rest : List Turn) :
    wordError w { s with turns := rest } = wordError w s := rfl

theorem codeOf_eq_errCode (e : CmdErr) : codeOf e = errCode e := by cases e <;> rfl

/-- The engine's turn with a command in flight is the engine's step. -/
theorem step_command {rest : List Turn} (hturn : EngineTurn s rest) (hbusy : s.busy = true)
    (hboot : s.bootPending = false) : step s = engineStep { s with turns := rest } :=
  (step_engine hturn.1 hturn.2).trans (engineTurn_command hbusy hboot)

/-- Settles O8: the engine's step takes the error of the word and no other effect; a command without an error has an effect
that touches neither `ERR` nor `ERRINFO`. -/
theorem errorsArePreciseAndPrioritised : Obligations.ErrorsArePreciseAndPrioritised := by
  intro s rest hturn hbusy hboot
  rw [step_command hturn hbusy hboot, ← wordError_withTurns s.cmdLatch s rest]
  cases herr : wordError s.cmdLatch { s with turns := rest } with
  | some e =>
    refine ⟨_, engineStep_of_wordError herr, by rw [codeOf_eq_errCode]; rfl, fun v => ?_⟩
    rw [State.access_writeCmd_idle (State.complete_busy _)]
    exact ⟨rfl, rfl⟩
  | none =>
    intro t ht
    obtain ⟨hkept, hinfo⟩ := engineStep_keepsErrors (s := { s with turns := rest }) herr t ht
    exact ⟨hkept, hinfo, engineStep_busy ht⟩

/-- Settles O7: a `CMD` write issues the word or is dropped, and the engine's step is that of the latched word. -/
theorem commandExecution : Obligations.CommandExecution := by
  refine ⟨fun s w rest ⟨hw, ht⟩ => ⟨_, step_host hw ht, ?_⟩, fun s rest hturn hbusy hboot => ?_⟩
  · split
    · next hb => exact State.access_writeCmd_busy (s := { s with turns := rest }) hb w
    · next hb => exact State.access_writeCmd_idle (s := { s with turns := rest }) (eq_false_of_ne_true hb) w
  · rw [step_command hturn hbusy hboot]
    cases hdec : decode s.cmdLatch with
    | ok i =>
      dsimp only
      rw [engineStep_of_ok (s := { s with turns := rest }) hdec]
      cases exec i { s with turns := rest } <;> rfl
    | error e =>
      dsimp only
      rw [engineStep_of_error (s := { s with turns := rest }) hdec, codeOf_eq_errCode]
      rfl

end Sys2Proof.Claims
end

section
/-! The key record that does not check: the host's accesses, the commands, the reset sequence and the reset input all leave it
so (70_reset R311, R327). -/

namespace Sys2Proof.Machine

open Sys2Proof.Claims

variable {i : Instr} {s t : State}

/-! Which fields a host access can change (10_state R52, 20_memory R94). -/

/-- `t` differs from `s` in what a host access can write, and in no other field. -/
def HostFramed (s t : State) : Prop :=
  t = { s with
    src := t.src, dst := t.dst, busy := t.busy, cmdLatch := t.cmdLatch, err := t.err, ovr := t.ovr, buf := t.buf
    reply := t.reply, freeCtr := t.freeCtr }

theorem State.writeReg_hostFramed (r : Reg) (v : Word) : HostFramed s (s.writeReg r v) := by
  cases r with
  | cmd | src | dst =>
    unfold State.writeReg
    dsimp only
    split <;> rfl
  | _ => rfl

theorem State.writeWindow_hostFramed (offset bytes : Nat) (v : Word) : HostFramed s (s.writeWindow offset bytes v) := by
  unfold State.writeWindow
  split
  · split <;> rfl
  · rfl

theorem State.writeEffect_hostFramed (width : Width) (addr : BitVec 17) (v : Word) :
    HostFramed s (s.writeEffect width addr v) := by
  unfold State.writeEffect
  cases busTarget width addr with
  | reg r => exact State.writeReg_hostFramed r v
  | window offset bytes => exact State.writeWindow_hostFramed offset bytes v
  | reserved | badAccess => rfl

theorem State.access_hostFramed (a : Access) : HostFramed s (s.access a) := by
  cases a with
  | read width addr => rfl
  | write width addr v =>
    have heffect : HostFramed s (s.writeEffect width addr v) := State.writeEffect_hostFramed width addr v
    unfold HostFramed State.access
    dsimp only
    rw [heffect]

/-! What a load would find, and that it finds a record that does not check (41_keystore R171). -/

/-- The configuration and NVM decide what a load finds. -/
theorem State.loadOutcome_congr (hcfg : t.cfg = s.cfg) (hnvm : t.nvm = s.nvm) : t.loadOutcome = s.loadOutcome := by
  unfold State.loadOutcome State.markerMatches State.storedKey State.storedChecksum State.nvmByte
  rw [hcfg, hnvm]

theorem State.storedKey_getElem (s : State) (i : Fin 32) : s.storedKey[i] = s.nvmByte (s.cfg.nvmKeyAddr + i.val) := by
  simp [State.storedKey]

theorem State.storedKey_toList (s : State) :
    s.storedKey.toList = (List.range 32).map fun i => s.nvmByte (s.cfg.nvmKeyAddr + i) :=
  List.ext_getElem (by simp) fun i _ _ => by simp [State.storedKey]

theorem State.markerMatches_of_error (h : s.loadOutcome = .error) : s.markerMatches = true := by
  by_contra hm
  rw [State.loadOutcome_invalid (mt State.markerMatches_iff.mpr hm)] at h
  cases h

/-- The record does not check, and once the reset sequence has ended `PSK_STATUS` says so. -/
def KeyLost (s : State) : Prop := s.loadOutcome = .error ∧ (s.bootPending = false → s.pskStatus = .error)

theorem KeyLost.of_kept (h : KeyLost s) (hcfg : t.cfg = s.cfg) (hnvm : t.nvm = s.nvm) (hpsk : t.pskStatus = s.pskStatus)
    (hboot : t.bootPending = s.bootPending) : KeyLost t := by
  obtain ⟨hrecord, hstatus⟩ := h
  exact ⟨(State.loadOutcome_congr hcfg hnvm).trans hrecord, fun hb => hpsk.trans (hstatus (hboot.symm.trans hb))⟩

theorem KeyLost.access (h : KeyLost s) (a : Access) : KeyLost (s.access a) := by
  have hframe : HostFramed s (s.access a) := State.access_hostFramed a
  apply h.of_kept <;> rw [hframe]

/-- The reset input keeps NVM, and leaves the verdict to the reset sequence (70_reset R310). -/
theorem KeyLost.applyReset (h : KeyLost s) : KeyLost s.applyReset :=
  ⟨(State.loadOutcome_congr rfl rfl).trans h.1, nofun⟩

/-- The reset sequence finds the record again and stores nothing (70_reset R311). -/
theorem KeyLost.resetSequence (h : KeyLost s) : KeyLost s.resetSequence := by
  obtain ⟨hrecord, -⟩ := h
  have hend := State.resetSequence_stored (State.markerMatches_of_error hrecord)
  refine ⟨(State.loadOutcome_congr ?_ ?_).trans hrecord, fun _ => ?_⟩ <;> rw [hend]
  exact hrecord

/-- KS_LOAD finds the record as it is, and the two commands that store one refuse `PSK_STATUS` = Error (41_keystore R175,
R177). -/
theorem KeyLost.exec (hlost : KeyLost s) (hboot : s.bootPending = false) (h : Machine.exec i s = .next t) :
    KeyLost t := by
  have hrecord : s.loadOutcome = .error := hlost.1
  have herror : s.pskStatus = .error := hlost.2 hboot
  obtain ⟨-, -, -, -, -, hcfg, hpending, -⟩ := hostRegistersAreTheHosts i s t h
  obtain ⟨hpsk, hnvm, -⟩ := onlyTheListedWriters i s t h
  cases i with
  | ksLoad =>
    obtain rfl := execKsLoad_next.mp h
    exact ⟨(State.loadOutcome_congr rfl rfl).trans hrecord, fun _ => hrecord⟩
  | ksStore =>
    rcases execKsStore_next h with ⟨e, rfl⟩ | ⟨hvalid, -⟩
    · exact hlost.of_kept rfl rfl rfl rfl
    · cases herror.symm.trans hvalid
  | ksInitdef =>
    rcases execKsInitdef_next h with ⟨e, rfl⟩ | ⟨hinvalid, -⟩
    · exact hlost.of_kept rfl rfl rfl rfl
    · cases herror.symm.trans hinvalid
  | _ => exact hlost.of_kept hcfg (hnvm nofun nofun).1 (hpsk nofun nofun).2 hpending

theorem KeyLost.engineTurn (hlost : KeyLost s) (h : Machine.engineTurn s = .next t) : KeyLost t := by
  rcases engineTurn_next h with ⟨-, rfl⟩ | ⟨-, -, rfl⟩ | ⟨-, hboot, ⟨e, -, rfl⟩ | ⟨i, u, -, hu, rfl⟩⟩
  · exact hlost
  · exact hlost.resetSequence
  · exact hlost.of_kept rfl rfl rfl rfl
  · exact (hlost.exec hboot hu).of_kept rfl rfl rfl rfl

end Sys2Proof.Machine

namespace Sys2Proof.Claims

open Sys2Proof.Machine

theorem corruptRecord_iff {s : State} : CorruptRecord s ↔ s.loadOutcome = .error := by
  unfold CorruptRecord
  rw [← State.storedKey_toList]
  by_cases hm : s.nvmByte s.cfg.nvmMarkerAddr = s.cfg.markerValue
  · rw [and_iff_right hm, State.loadOutcome_stored hm, ite_eq_right_iff]
    exact ⟨fun hne hsum => absurd hsum hne, fun h hsum => nomatch h hsum⟩
  · simp [State.loadOutcome_invalid hm, hm]

/-- Settles O60: none of the turns of 20_memory R97 mends the record or takes Error back. The invariant is not needed. -/
theorem corruptKeyIsPermanent : Obligations.CorruptKeyIsPermanent := by
  intro s t _ hrecord hstatus h
  have turn (rest : List Turn) : KeyLost { s with turns := rest } := ⟨corruptRecord_iff.mp hrecord, hstatus⟩
  have hlost : KeyLost t := by
    obtain ⟨-, ⟨a, rest, -, rfl⟩ | ⟨rest, -, rfl⟩ | ⟨rest, -, h⟩⟩ := step_next h
    · exact (turn rest).access a
    · exact (turn rest).applyReset
    · exact (turn rest).engineTurn h
  exact ⟨corruptRecord_iff.mpr hlost.1, hlost.2⟩

end Sys2Proof.Claims
end

section
/-! The pending send: the commands that leave it, and what SES_BYTE does meanwhile (70_reset R323, R324). -/

namespace Sys2Proof.Machine

variable {s t : State}

/-- A flush with a send pending only empties the input buffer (44_session R240). -/
theorem Flushed.of_pending (h : Flushed s t) (hp : s.sendPending = true) :
    t = { s with inlen := 0, events := t.events } := by
  cases h with
  | aborted h | suppressed h => rw [h]; rfl
  | sent pt hpsk hpending hread hfits h => cases hp.symm.trans hpending

/-- With a send pending SES_BYTE leaves `SEND_PENDING`, `TXLEN`, `NONCE` and the cipher state, and stores at most the byte it
appends. -/
theorem ByteEffect.of_pending {b : Byte} (h : ByteEffect b s t) (hp : s.sendPending = true) :
    t = { s with
      err := t.err, errinfo := t.errinfo, session := t.session, mode := t.mode, localAddr := t.localAddr
      inlen := t.inlen, events := t.events, buf := t.buf } ∧
    (t.buf = s.buf ∨ t.buf = (s.appended b).buf) := by
  cases h with
  | error _ _ h | sender _ _ h | listener _ _ h | same h | invalid h | prompt _ _ h | redisplay h =>
    rw [h]
    exact ⟨rfl, .inl rfl⟩
  | appended hs hfits hroom h => rw [h]; exact ⟨rfl, .inr rfl⟩
  | overflow hs hfits hfull h => rw [h.of_pending hp]; exact ⟨rfl, .inr rfl⟩
  | submit hs h => rw [h.of_pending hp]; exact ⟨rfl, .inl rfl⟩

theorem ByteEffect.bufByte_of_pending {b : Byte} (h : ByteEffect b s t) (hp : s.sendPending = true) {a : Nat}
    (ha : a ≠ s.cfg.inBase + s.inlen.toNat) : t.bufByte a = s.bufByte a := by
  obtain ⟨-, hbuf | hbuf⟩ := h.of_pending hp
  · exact State.bufByte_congr hbuf a
  · exact State.bufByte_of_buf_putBuf hbuf (List.length_singleton ..) (by omega)

/-- The byte SES_BYTE appends lies below the TX region: `INLEN` < `P_INCAP` < `TX_BASE` (00_scope R9, R10). -/
theorem State.Inv.append_below_txBase (hi : s.Inv) : s.cfg.inBase + s.inlen.toNat < s.cfg.txBase := by
  have hlt := hi.inlen_lt
  obtain ⟨-, -, -, hcap, -⟩ := hi.cfg_ok
  unfold Config.inBase Config.txBase
  omega

end Sys2Proof.Machine

namespace Sys2Proof.Claims

open Sys2Proof.Machine

/-- SES_RX and SES_TICK store nothing in the TX region (20_memory R83). -/
theorem exec_txRegion_kept {i : Instr} {s t : State} (h : exec i s = .next t)
    (hi : (∃ len, i = .sesRx len) ∨ i = .sesTick) {a : Nat} (ha : a < s.cfg.rxBase) : t.bufByte a = s.bufByte a := by
  have hbelow : a < s.cfg.ptBase := by
    unfold Config.rxBase at ha
    unfold Config.ptBase
    omega
  refine onlyTheStoredRangesChange i s t h a fun r hr => .inl ?_
  rcases hi with ⟨len, rfl⟩ | rfl
  · simp only [storedRanges, List.mem_ite_nil_right, List.mem_singleton] at hr
    obtain ⟨-, rfl⟩ := hr
    exact hbelow
  · cases hr

/-- Settles O47: SES_BYTE cannot send while a send is pending; of the other commands only SES_CONFIRM writes `SEND_PENDING`. -/
theorem pendingSendIsKept : Obligations.PendingSendIsKept := by
  intro i s t hp h hconfirm
  by_cases hbyte : ∃ b, i = .sesByte b
  · obtain ⟨b, rfl⟩ := hbyte
    have heffect := execSesByte_effect h
    obtain ⟨hframe, -⟩ := heffect.of_pending hp
    have hbuf (a : Nat) (ha : a ≠ s.cfg.inBase + s.inlen.toNat) : t.bufByte a = s.bufByte a :=
      heffect.bufByte_of_pending hp ha
    refine ⟨by rw [hframe]; exact hp, by rw [hframe], fun _ _ => ⟨by rw [hframe], hbuf⟩, fun hi _ a ha _ => ?_⟩
    exact hbuf a (hi.append_below_txBase.trans_le ha).ne'
  · have hne (b : Byte) : i ≠ .sesByte b := fun hb => hbyte ⟨b, hb⟩
    obtain ⟨-, -, -, hsession, -, -, hpending, -⟩ := onlyTheListedWriters i s t h
    obtain ⟨-, -, -, htxlen⟩ := hsession hne
    exact ⟨(hpending hne hconfirm).trans hp, htxlen, fun b hb => absurd hb (hne b),
      fun _ hi a _ ha => exec_txRegion_kept h (hi.resolve_left hbyte) ha⟩

end Sys2Proof.Claims
end

section
/-! Reset: the values the reset input leaves, the reset sequence after it, and the invariant of every power-on state (70_reset
R310 to R314). -/

namespace Sys2Proof.Machine

/-- The reset sequence writes the key state, the record and the events, and ends in ModeSelection (70_reset R311). -/
theorem State.resetSequence_eq (s : State) :
    s.resetSequence = { s with
      key := s.resetSequence.key, pskStatus := s.resetSequence.pskStatus, result := s.resetSequence.result
      nvm := s.resetSequence.nvm, nvmLog := s.resetSequence.nvmLog, events := s.resetSequence.events
      session := .modeSelection, busy := false, bootPending := false, freeCtr := s.freeCtr + 1 } := by
  unfold State.resetSequence
  rw [State.bootKey_eq]
  rfl

end Sys2Proof.Machine

namespace Sys2Proof.Claims

open Sys2Proof.Machine

/-- The engine's turn with the reset sequence still to run is the reset sequence (60_exceptions R280). -/
theorem step_boot {s : State} {rest : List Turn} (hturn : EngineTurn s rest) (hbusy : s.busy = true)
    (hboot : s.bootPending = true) : step s = .next ({ s with turns := rest } : State).resetSequence := by
  rw [step_engine hturn.1 hturn.2]
  unfold engineTurn
  rw [if_pos hbusy, if_pos hboot]

/-- No record: the default key is installed and stored. -/
theorem resetSequence_unmarked {s : State} (hw : s.cfg.wf)
    (hm : s.nvmByte s.cfg.nvmMarkerAddr ≠ s.cfg.markerValue) :
    s.resetSequence.key = s.cfg.defaultPsk ∧ s.resetSequence.pskStatus = .valid ∧ s.resetSequence.result = 0 ∧
    RecordStored s s.resetSequence s.cfg.defaultPsk ∧
    s.resetSequence.nvmLog = s.nvmLog ++ storeLog s.cfg s.cfg.defaultPsk ∧
    s.resetSequence.events = s.events ++ [.notice .keyInvalid, .notice .promptMode] := by
  rw [State.resetSequence_invalid (eq_false_of_ne_true (mt State.markerMatches_iff.mp hm))]
  exact ⟨rfl, rfl, rfl, storeSeq_recordStored hw s.cfg.defaultPsk, storeSeq_nvmLog s.cfg.defaultPsk, rfl⟩

/-- A record: its key is loaded, and its checksum decides. -/
theorem resetSequence_marked {s : State} (hm : s.nvmByte s.cfg.nvmMarkerAddr = s.cfg.markerValue) :
    s.resetSequence.key = s.storedKey ∧ s.resetSequence.nvm = s.nvm ∧ s.resetSequence.nvmLog = s.nvmLog ∧
    (xor8 s.storedKey.toList = s.storedChecksum →
      s.resetSequence.pskStatus = .valid ∧ s.resetSequence.result = 1 ∧
      s.resetSequence.events = s.events ++ [.notice .promptMode]) ∧
    (xor8 s.storedKey.toList ≠ s.storedChecksum →
      s.resetSequence.pskStatus = .error ∧ s.resetSequence.result = 2 ∧
      s.resetSequence.events = s.events ++ [.notice .keyCorrupt, .notice .promptMode]) := by
  have hend := State.resetSequence_stored (State.markerMatches_iff.mpr hm)
  have hout := State.loadOutcome_stored hm
  refine ⟨by rw [hend], by rw [hend], by rw [hend], fun hsum => ?_, fun hsum => ?_⟩
  · rw [hout.trans (if_pos hsum)] at hend
    rw [hend]
    exact ⟨rfl, rfl, rfl⟩
  · rw [hout.trans (if_neg hsum)] at hend
    rw [hend]
    exact ⟨rfl, rfl, rfl⟩

/-- Settles O57: the marker decides between the default key and the stored one, the checksum between Valid and Error. -/
theorem resetSequence : Obligations.ResetSequence := by
  intro s rest hturn hbusy hboot
  refine ⟨_, step_boot hturn hbusy hboot, State.resetSequence_eq { s with turns := rest }, ?_⟩
  split
  · next hm => exact resetSequence_unmarked (s := { s with turns := rest }) hturn.1 hm
  · next hm =>
    obtain ⟨hkey, hnvm, hlog, hverdict⟩ := resetSequence_marked (s := { s with turns := rest }) (not_not.mp hm)
    rw [hkey, ite_prop_iff_and]
    exact ⟨State.storedKey_getElem _, hnvm, hlog, hverdict⟩

/-- Settles O56: each register is that of `State.powerOn`; the rest the reset input takes from its state. -/
theorem resetValues : Obligations.ResetValues := by
  intro s rest hw ht
  refine ⟨_, step_reset hw ht, ?_⟩
  and_intros <;> intros <;> rfl

/-- Settles O58: the configuration of `State.reset` is admissible, and its NVM image empty. -/
theorem resetHasTheInvariant : Obligations.ResetHasTheInvariant :=
  ⟨fun _ _ => State.powerOn_inv, State.powerOn_inv (by decide) Memory.nil_wf⟩

end Sys2Proof.Claims
end
